-- ==== Sys2Proof/Word.lean ====
section
/-!
DEFINITION. The bit widths of the block (00_scope.md R6, R11; 30_encoding.md R100, R106, R108).
-/

namespace Sys2Proof

/-- `uAW` with `AW = 32`: an address, a host register or a cursor (R6). -/
abbrev Word := BitVec 32

/-- `u8`, or `s8` where a rule reads it as signed (R11). -/
abbrev Byte := BitVec 8

/-- `s32`: an accumulator, read as two's complement (R11, R41). -/
abbrev Accum := BitVec 32

/-- A host-transaction word, format `HT` (R106). -/
abbrev HtWord := BitVec 37

/-- A `PHASE` code, format `UOP` (R108). -/
abbrev PhaseCode := BitVec 5

/-- A host register number, the field `n` of an `HT` word (R21, R106). -/
abbrev SlotNo := BitVec 4

end Sys2Proof
end

