-- ==== Sys2Proof/Config.lean ====
section
/-!
DEFINITION. What an instantiation of the block fixes (00_scope.md R5, 30_encoding.md R101 to R103) and the free values.
The four source orders and the two pixel orders are the enumerated tables of R101 and R103; no other layout exists (R113).
-/

namespace Sys2Proof

/-- The order of a source group, one constructor per row of the table of R101. -/
inductive SourceOrder where
  /-- `Y_IDX = 0`, `U_IDX = 0` (the default). -/
  | yuyv
  /-- `Y_IDX = 0`, `U_IDX = 1`. -/
  | yvyu
  /-- `Y_IDX = 1`, `U_IDX = 0`. -/
  | uyvy
  /-- `Y_IDX = 1`, `U_IDX = 1`. -/
  | vyuy
  deriving DecidableEq, Repr

/-- The order of a destination pixel, one constructor per row of the table of R103. -/
inductive PixelOrder where
  /-- `B_IDX = 2` (the default). -/
  | rgba
  /-- `B_IDX = 0`. -/
  | bgra
  deriving DecidableEq, Repr

/-- The layout of one instantiation: only the eight legal ones can be written down (R5, R113). -/
structure Layout where
  source : SourceOrder
  pixel  : PixelOrder
  deriving DecidableEq, Repr

/-- The default instantiation: bytes in "YUYV" order in, bytes in R,G,B,A order out (R5). -/
def Layout.default : Layout := { source := .yuyv, pixel := .rgba }

/-- The three build-time parameters as the builder writes them, legal or not (R5, R113). -/
structure LayoutParams where
  yIdx : Nat
  uIdx : Nat
  bIdx : Nat
  deriving DecidableEq, Repr

/-- FREE VALUE (R252, U9; log 12): when the reset numbered by the first argument cuts a run short, whether the byte of the
destination region at the second argument's address has landed (holds its final value) or is still as before the run.
It has no body, so a claim about it holds for every choice. -/
opaque Config.landsAtReset : Nat → Nat → Bool

end Sys2Proof
end

