-- ==== Sys2Proof/Syntax.lean ====
section
/-!
DEFINITION. The instructions: the 14 host commands (30_encoding.md R115) and the 20 operations of CONV (R108), one
constructor per row of spec/opcode_table.json.
-/

namespace Sys2Proof

/-- One row of spec/opcode_table.json each. A host command carries the operands its rule names; the bits a rule calls
ignored and gives no operand (data of `REGRD`, bits 31:1 of a `CTRL` write) are not kept (log 16). -/
inductive Instr where
  -- host commands (40_host_commands.md)
  | regrd (n : SlotNo)
  | start
  | ctrlnop
  | wrignStatus (v : Word)
  | wrSrcBase (v : Word)
  | wrSrcStride (v : Word)
  | wrSrcLen (v : Word)
  | wrDstBase (v : Word)
  | wrDstLen (v : Word)
  | wrWidth (v : Word)
  | wrHeight (v : Word)
  | wrignLayout (v : Word)
  | wrignR10 (n : SlotNo) (v : Word)
  | wrignR12 (n : SlotNo) (v : Word)
  -- operations of CONV (41 to 45)
  | idle
  | check
  | fetch4
  | unpack
  | center
  | rterm
  | gterm
  | bterm
  | yscale
  | rsum
  | gsum
  | bsum
  | satr
  | satg
  | satb
  | pack
  | store8
  | advance
  | nextrow
  | finish
  deriving DecidableEq, Repr

end Sys2Proof
end

