-- ==== Sys2Proof/Decode.lean ====
section
/-!
DEFINITION. Decoding and encoding: format `HT` (30_encoding.md R106, R115), format `UOP` (R108, R111), the table of R115
and R108 as data, and the layout parameters (R113).
-/

namespace Sys2Proof

/-- The word an agent's step is selected by: a host transaction (R106) or the code in `PHASE` (R108). -/
inductive CodeWord where
  | ht (w : HtWord)
  | uop (c : PhaseCode)
  deriving DecidableEq, Repr

/-- Why a word has no instruction. Only `PHASE` codes can fail: the decoder of `HT` words is total (R112). -/
inductive DecodeError where
  /-- A reserved `PHASE` code, 0x14 to 0x1F (R111). -/
  | reservedPhase (c : PhaseCode)
  deriving DecidableEq, Repr

/-- Bit 36 of an `HT` word: 1 write, 0 read (R106). -/
def htWrite (w : HtWord) : Bool := w.getLsbD 36

/-- Bits 35:32 of an `HT` word: the register number (R106). -/
def htSlot (w : HtWord) : SlotNo := w.extractLsb' 32 4

/-- Bits 31:0 of an `HT` word: the data (R106). -/
def htData (w : HtWord) : Word := w.extractLsb' 0 32

/-- An `HT` word from its three fields (R106). -/
def htWord (write : Bool) (n : SlotNo) (data : Word) : HtWord := BitVec.ofBool write ++ n ++ data

/-- The write rows of R115, by register number. -/
def decodeWrite (n : SlotNo) (v : Word) : Instr :=
  match n.toNat with
  | 0 => if v.getLsbD 0 then .start else .ctrlnop
  | 1 => .wrignStatus v
  | 2 => .wrSrcBase v
  | 3 => .wrSrcStride v
  | 4 => .wrSrcLen v
  | 5 => .wrDstBase v
  | 6 => .wrDstLen v
  | 7 => .wrWidth v
  | 8 => .wrHeight v
  | 9 => .wrignLayout v
  | 10 => .wrignR10 n v
  | 11 => .wrignR10 n v
  | _ => .wrignR12 n v

/-- The decoder of host-transaction words: total (R112, R115). -/
def decodeHt (w : HtWord) : Instr :=
  if htWrite w then decodeWrite (htSlot w) (htData w) else .regrd (htSlot w)

/-- The decoder of `PHASE` codes (R108); the codes 0x14 to 0x1F are reserved (R111). -/
def decodeUop (c : PhaseCode) : Except DecodeError Instr :=
  match c.toNat with
  | 0x00 => .ok .idle
  | 0x01 => .ok .check
  | 0x02 => .ok .fetch4
  | 0x03 => .ok .unpack
  | 0x04 => .ok .center
  | 0x05 => .ok .rterm
  | 0x06 => .ok .gterm
  | 0x07 => .ok .bterm
  | 0x08 => .ok .yscale
  | 0x09 => .ok .rsum
  | 0x0A => .ok .gsum
  | 0x0B => .ok .bsum
  | 0x0C => .ok .satr
  | 0x0D => .ok .satg
  | 0x0E => .ok .satb
  | 0x0F => .ok .pack
  | 0x10 => .ok .store8
  | 0x11 => .ok .advance
  | 0x12 => .ok .nextrow
  | 0x13 => .ok .finish
  | _ => .error (.reservedPhase c)

/-- The decoder: total, a reserved code rejected by name. -/
def decode : CodeWord → Except DecodeError Instr
  | .ht w => .ok (decodeHt w)
  | .uop c => decodeUop c

/-- The encoder: the word of R115 or the code of R108. Ignored bits are written as 0 (R106, R22). -/
def encode : Instr → CodeWord
  | .regrd n => .ht (htWord false n 0#32)
  | .start => .ht (htWord true 0#4 1#32)
  | .ctrlnop => .ht (htWord true 0#4 0#32)
  | .wrignStatus v => .ht (htWord true 1#4 v)
  | .wrSrcBase v => .ht (htWord true 2#4 v)
  | .wrSrcStride v => .ht (htWord true 3#4 v)
  | .wrSrcLen v => .ht (htWord true 4#4 v)
  | .wrDstBase v => .ht (htWord true 5#4 v)
  | .wrDstLen v => .ht (htWord true 6#4 v)
  | .wrWidth v => .ht (htWord true 7#4 v)
  | .wrHeight v => .ht (htWord true 8#4 v)
  | .wrignLayout v => .ht (htWord true 9#4 v)
  | .wrignR10 n v => .ht (htWord true n v)
  | .wrignR12 n v => .ht (htWord true n v)
  | .idle => .uop 0x00#5
  | .check => .uop 0x01#5
  | .fetch4 => .uop 0x02#5
  | .unpack => .uop 0x03#5
  | .center => .uop 0x04#5
  | .rterm => .uop 0x05#5
  | .gterm => .uop 0x06#5
  | .bterm => .uop 0x07#5
  | .yscale => .uop 0x08#5
  | .rsum => .uop 0x09#5
  | .gsum => .uop 0x0A#5
  | .bsum => .uop 0x0B#5
  | .satr => .uop 0x0C#5
  | .satg => .uop 0x0D#5
  | .satb => .uop 0x0E#5
  | .pack => .uop 0x0F#5
  | .store8 => .uop 0x10#5
  | .advance => .uop 0x11#5
  | .nextrow => .uop 0x12#5
  | .finish => .uop 0x13#5

/-- What kind of word a row of the table is over (R100). -/
inductive Format where
  | ht
  | uop
  deriving DecidableEq, Repr

/-- One row of the tables of R108 and R115: a word selects the row when its bits under `mask` are `pattern`. -/
structure Row where
  mnemonic : String
  format   : Format
  pattern  : Nat
  mask     : Nat
  deriving DecidableEq, Repr

/-- The host command map of R115, in its order. -/
def htRows : List Row :=
  [ ⟨"REGRD", .ht, 0x0000000000, 0x1000000000⟩,
    ⟨"START", .ht, 0x1000000001, 0x1F00000001⟩,
    ⟨"CTRLNOP", .ht, 0x1000000000, 0x1F00000001⟩,
    ⟨"WRIGN.STATUS", .ht, 0x1100000000, 0x1F00000000⟩,
    ⟨"WR_SRC_BASE", .ht, 0x1200000000, 0x1F00000000⟩,
    ⟨"WR_SRC_STRIDE", .ht, 0x1300000000, 0x1F00000000⟩,
    ⟨"WR_SRC_LEN", .ht, 0x1400000000, 0x1F00000000⟩,
    ⟨"WR_DST_BASE", .ht, 0x1500000000, 0x1F00000000⟩,
    ⟨"WR_DST_LEN", .ht, 0x1600000000, 0x1F00000000⟩,
    ⟨"WR_WIDTH", .ht, 0x1700000000, 0x1F00000000⟩,
    ⟨"WR_HEIGHT", .ht, 0x1800000000, 0x1F00000000⟩,
    ⟨"WRIGN.LAYOUT", .ht, 0x1900000000, 0x1F00000000⟩,
    ⟨"WRIGN.R10", .ht, 0x1A00000000, 0x1E00000000⟩,
    ⟨"WRIGN.R12", .ht, 0x1C00000000, 0x1C00000000⟩ ]

/-- The `PHASE` codes of R108, in their order. -/
def uopRows : List Row :=
  [ ⟨"IDLE", .uop, 0x00, 0x1F⟩,
    ⟨"CHECK", .uop, 0x01, 0x1F⟩,
    ⟨"FETCH4", .uop, 0x02, 0x1F⟩,
    ⟨"UNPACK", .uop, 0x03, 0x1F⟩,
    ⟨"CENTER", .uop, 0x04, 0x1F⟩,
    ⟨"RTERM", .uop, 0x05, 0x1F⟩,
    ⟨"GTERM", .uop, 0x06, 0x1F⟩,
    ⟨"BTERM", .uop, 0x07, 0x1F⟩,
    ⟨"YSCALE", .uop, 0x08, 0x1F⟩,
    ⟨"RSUM", .uop, 0x09, 0x1F⟩,
    ⟨"GSUM", .uop, 0x0A, 0x1F⟩,
    ⟨"BSUM", .uop, 0x0B, 0x1F⟩,
    ⟨"SATR", .uop, 0x0C, 0x1F⟩,
    ⟨"SATG", .uop, 0x0D, 0x1F⟩,
    ⟨"SATB", .uop, 0x0E, 0x1F⟩,
    ⟨"PACK", .uop, 0x0F, 0x1F⟩,
    ⟨"STORE8", .uop, 0x10, 0x1F⟩,
    ⟨"ADVANCE", .uop, 0x11, 0x1F⟩,
    ⟨"NEXTROW", .uop, 0x12, 0x1F⟩,
    ⟨"FINISH", .uop, 0x13, 0x1F⟩ ]

/-- The mnemonic of an instruction's row, as spec/opcode_table.json spells it. -/
def Instr.mnemonic : Instr → String
  | .regrd _ => "REGRD"
  | .start => "START"
  | .ctrlnop => "CTRLNOP"
  | .wrignStatus _ => "WRIGN.STATUS"
  | .wrSrcBase _ => "WR_SRC_BASE"
  | .wrSrcStride _ => "WR_SRC_STRIDE"
  | .wrSrcLen _ => "WR_SRC_LEN"
  | .wrDstBase _ => "WR_DST_BASE"
  | .wrDstLen _ => "WR_DST_LEN"
  | .wrWidth _ => "WR_WIDTH"
  | .wrHeight _ => "WR_HEIGHT"
  | .wrignLayout _ => "WRIGN.LAYOUT"
  | .wrignR10 _ _ => "WRIGN.R10"
  | .wrignR12 _ _ => "WRIGN.R12"
  | .idle => "IDLE"
  | .check => "CHECK"
  | .fetch4 => "FETCH4"
  | .unpack => "UNPACK"
  | .center => "CENTER"
  | .rterm => "RTERM"
  | .gterm => "GTERM"
  | .bterm => "BTERM"
  | .yscale => "YSCALE"
  | .rsum => "RSUM"
  | .gsum => "GSUM"
  | .bsum => "BSUM"
  | .satr => "SATR"
  | .satg => "SATG"
  | .satb => "SATB"
  | .pack => "PACK"
  | .store8 => "STORE8"
  | .advance => "ADVANCE"
  | .nextrow => "NEXTROW"
  | .finish => "FINISH"

/-- A host-transaction word selects a row (R115: `w & mask = match`). -/
def Row.selects (r : Row) (w : HtWord) : Bool := w &&& BitVec.ofNat 37 r.mask == BitVec.ofNat 37 r.pattern

/-- A code word selects a row of its own format (R108, R115). -/
def Row.selectsWord (r : Row) : CodeWord → Bool
  | .ht w => r.format == .ht && r.selects w
  | .uop c => r.format == .uop && c &&& BitVec.ofNat 5 r.mask == BitVec.ofNat 5 r.pattern

/-- The instruction the decoder reads from `w`, an instruction of `nbits` bits numbered as spec/opcode_table.json numbers
them: up to one byte is a `PHASE` code, more is a host-transaction word; a word too wide for its format has none (log 17). -/
def decodeTableWord (nbits w : Nat) : Option Instr :=
  if nbits ≤ 8 then
    if w < 2 ^ 5 then (decode (.uop (BitVec.ofNat 5 w))).toOption else none
  else
    if w < 2 ^ 37 then (decode (.ht (BitVec.ofNat 37 w))).toOption else none

/-- Builds a layout from the three parameters by the rows of R101 and R103; an illegal value is refused (R113). -/
def buildLayout (p : LayoutParams) : Option Layout :=
  let source := match p.yIdx, p.uIdx with
    | 0, 0 => some SourceOrder.yuyv
    | 0, 1 => some .yvyu
    | 1, 0 => some .uyvy
    | 1, 1 => some .vyuy
    | _, _ => none
  let pixel := match p.bIdx with
    | 2 => some PixelOrder.rgba
    | 0 => some .bgra
    | _ => none
  match source, pixel with
  | some s, some x => some { source := s, pixel := x }
  | _, _ => none

/-- The parameters of a layout, read back from the rows of R101 and R103. -/
def paramsOf (l : Layout) : LayoutParams :=
  { yIdx := match l.source with
      | .yuyv => 0
      | .yvyu => 0
      | .uyvy => 1
      | .vyuy => 1
    uIdx := match l.source with
      | .yuyv => 0
      | .yvyu => 1
      | .uyvy => 0
      | .vyuy => 1
    bIdx := match l.pixel with
      | .rgba => 2
      | .bgra => 0 }

end Sys2Proof
end

