-- ==== Sys2Proof/Machine/State.lean ====
section
/-!
DEFINITION. The state of the block and of what surrounds it, as plain data (10_state.md R20 to R48), its reset value (R50)
and the reasons a step can stop.
-/

namespace Sys2Proof.Machine

/-- The seven configuration registers, slots 2 to 8 of the host register file (R24 to R30). -/
structure HostRegs where
  /-- Slot 2 (R24). -/
  srcBase : Word
  /-- Slot 3 (R25). -/
  srcStride : Word
  /-- Slot 4 (R26). -/
  srcLen : Word
  /-- Slot 5 (R27). -/
  dstBase : Word
  /-- Slot 6 (R28). -/
  dstLen : Word
  /-- Slot 7 (R29). -/
  width : Word
  /-- Slot 8 (R30). -/
  height : Word
  deriving DecidableEq, Repr

/-- The fields of `STATUS`, slot 1 (R23, R33); its reserved bits have no storage. -/
structure Status where
  busy : Bool
  done : Bool
  err : Bool
  errCode : BitVec 4
  deriving DecidableEq, Repr

/-- The sequencer registers (R34 to R37). -/
structure SeqRegs where
  /-- `PHASE`, the code of the operation CONV performs at its next step (R34). -/
  phase : PhaseCode
  /-- `K`, the lane (R35). -/
  k : BitVec 1
  /-- `COL`, the pair's index in its row (R36). -/
  col : Word
  /-- `ROW`, the row's index (R36). -/
  row : Word
  /-- `SROW`, the address of the current source row (R37). -/
  srow : Word
  /-- `DROW`, the address of the current destination row (R37). -/
  drow : Word
  /-- `SCUR`, the address of the current group (R37). -/
  scur : Word
  /-- `DCUR`, the address of the current pair's 8 bytes (R37). -/
  dcur : Word
  deriving DecidableEq, Repr

/-- The datapath registers (R38 to R45). -/
structure Datapath where
  /-- `G0` to `G3`: the bytes of the current group in address order (R38). -/
  g0 : Byte
  g1 : Byte
  g2 : Byte
  g3 : Byte
  /-- `Y0`, `Y1`, `U`, `V`: the samples of the pair (R39). -/
  y0 : Byte
  y1 : Byte
  u : Byte
  v : Byte
  /-- `SU`, `SV`: the centred chroma, signed (R40). -/
  su : Byte
  sv : Byte
  /-- `RT`, `GT`, `BT`: the offset terms (R41). -/
  rt : Accum
  gt : Accum
  bt : Accum
  /-- `YS`: the scaled luma of the current lane (R42). -/
  ys : Accum
  /-- `RS`, `GS`, `BS`: the shifted sums of the current lane (R43). -/
  rs : Accum
  gs : Accum
  bs : Accum
  /-- `R8`, `G8`, `B8`: the saturated channels of the current lane (R44). -/
  r8 : Byte
  g8 : Byte
  b8 : Byte
  /-- `P0` to `P7`: the output bytes of the pair in address order (R45). -/
  p0 : Byte
  p1 : Byte
  p2 : Byte
  p3 : Byte
  p4 : Byte
  p5 : Byte
  p6 : Byte
  p7 : Byte
  deriving DecidableEq, Repr

/-- Memory contents: the listed bytes; see `Memory.read` for an address that is not listed. -/
abbrev Memory := List Host.Cell

/-- What answers at an address that is not ordinary memory. -/
inductive WindowKind where
  /-- Memory does not answer there: `mem_admits` is false (R92, D18). -/
  | absent
  /-- A device, whose accesses have side effects (R79, D31). -/
  | device
  deriving DecidableEq, Repr

/-- A range `[base, base + size)` of the address space that is not ordinary memory. -/
structure Window where
  base : Nat
  size : Nat
  kind : WindowKind
  deriving DecidableEq, Repr

/-- What can happen next, in the order of the agenda (R8, R144; log 4). -/
inductive Event where
  /-- HOST puts one transaction on the register port (R106). -/
  | command (w : HtWord)
  /-- CONV takes its next step (R8). -/
  | conv
  /-- HOST reads a byte of memory (R70, R87). -/
  | hostRead (a : Word)
  /-- HOST, or another agent, writes a byte of memory (R70, R87). -/
  | hostWrite (a : Word) (b : Byte)
  /-- The reset input is asserted and released (R250). -/
  | reset
  deriving DecidableEq, Repr

/-- The duties of HOST from an accepted `START` to the `STATUS` read that shows `BUSY = 0` (R87, R256). -/
inductive Duty where
  /-- (a): HOST does not write the payload set. -/
  | keepSource
  /-- (b): HOST does not read the destination region. -/
  | leaveDestinationUnread
  /-- (c): nobody but CONV writes the destination region. -/
  | leaveDestinationUnwritten
  deriving DecidableEq, Repr

/-- The whole machine: the block, the memory and platform around it, and the events to come. -/
structure State where
  /-- The build-time layout: `LAYOUT` (R31); nothing writes it. -/
  layout : Layout
  /-- Slots 2 to 8 (R24 to R30). -/
  cfg : HostRegs
  /-- Slot 1 (R23). -/
  status : Status
  /-- The sequencer registers (R34 to R37). -/
  seq : SeqRegs
  /-- The datapath registers (R38 to R45). -/
  dp : Datapath
  /-- `rdata`: what the last `REGRD` returned to HOST (R106, R130; log 13). -/
  rdata : Word
  /-- Memory (R70). -/
  mem : Memory
  /-- Which addresses are not ordinary memory (R79, R92); nothing writes it (log 5). -/
  platform : List Window
  /-- The model's own: the byte HOST's last memory read returned (log 13). -/
  mdata : Byte
  /-- The model's own: memory when the last `START` was accepted, `mem0` of R206 (log 12). -/
  launchMem : Memory
  /-- The model's own: the configurations of the runs whose end HOST has not yet seen, latest first; HOST owes its duties on
  their buffers (R256; log 9). -/
  owed : List HostRegs
  /-- The model's own: numbers the resets, for `Config.landsAtReset` (log 12). -/
  draws : Nat
  /-- The model's own: the events to come, first first; empty gives CONV the turn (log 4). -/
  agenda : List Event
  deriving DecidableEq, Repr

/-- Why the machine stops with a fault. -/
inductive Fault where
  /-- Raised by `FETCH4`, `STORE8` and HOST's memory accesses where memory does not answer: CONV is stuck (R92). Safe: the
  block has no step there and the model takes none. -/
  | memoryNotAdmitted
  /-- Raised by CONV's turn when `PHASE` holds a reserved code: CONV is stuck (R111; log 7). Safe: no run reaches it. -/
  | reservedPhase (c : PhaseCode)
  deriving DecidableEq, Repr

/-- Why the machine gives a step no meaning. -/
inductive Refusal where
  /-- Raised by an arm of `exec` whose instruction has no meaning yet. Safe. No arm raises it. -/
  | notModelled (mnemonic : String)
  /-- Raised by `CHECK` when the launch's regions touch a device, and by an access to one (R79, U13). Safe. -/
  | deviceMemory
  /-- Raised by a HOST memory access that breaks a duty while HOST owes it (R87, R88, R256, U6). Unsafe: a claim says nothing
  of a platform where the duty is broken (log 9). -/
  | dutyBroken (d : Duty)
  deriving DecidableEq, Repr

/-- `STATUS = 0` (R50). -/
def Status.zero : Status := { busy := false, done := false, err := false, errCode := 0 }

/-- The configuration registers after reset (R50). -/
def HostRegs.zero : HostRegs :=
  { srcBase := 0, srcStride := 0, srcLen := 0, dstBase := 0, dstLen := 0, width := 0, height := 0 }

/-- `PHASE = IDLE` (R50); the others are unspecified there, zero here. DESIGN CHOICE, unsafe (log 1). -/
def SeqRegs.afterReset : SeqRegs :=
  { phase := 0, k := 0, col := 0, row := 0, srow := 0, drow := 0, scur := 0, dcur := 0 }

/-- Unspecified after reset (R50); zero here. DESIGN CHOICE, unsafe (log 1). -/
def Datapath.afterReset : Datapath :=
  { g0 := 0, g1 := 0, g2 := 0, g3 := 0, y0 := 0, y1 := 0, u := 0, v := 0, su := 0, sv := 0, rt := 0, gt := 0, bt := 0,
    ys := 0, rs := 0, gs := 0, bs := 0, r8 := 0, g8 := 0, b8 := 0, p0 := 0, p1 := 0, p2 := 0, p3 := 0, p4 := 0, p5 := 0,
    p6 := 0, p7 := 0 }

/-- The state after reset of an instantiation with layout `l` (R50), with memory unlisted, a platform of ordinary memory
only, nothing in store and no duty owed. DESIGN CHOICE (logs 2, 4, 5, 9, 13). -/
def State.resetOf (l : Layout) : State :=
  { layout := l, cfg := HostRegs.zero, status := Status.zero, seq := SeqRegs.afterReset, dp := Datapath.afterReset,
    rdata := 0, mem := [], platform := [], mdata := 0, launchMem := [], owed := [], draws := 0, agenda := [] }

/-- The default instantiation right after reset (R5, R50). -/
def State.reset : State := State.resetOf Layout.default

/-- `s` with `PHASE <- c` (R12). -/
def State.goto (s : State) (c : PhaseCode) : State := { s with seq := { s.seq with phase := c } }

/-- `s` with the sequencer registers replaced. -/
def State.setSeq (s : State) (q : SeqRegs) : State := { s with seq := q }

/-- `s` with the datapath registers replaced. -/
def State.setDp (s : State) (d : Datapath) : State := { s with dp := d }

/-- `s` with `STATUS` replaced. -/
def State.setStatus (s : State) (x : Status) : State := { s with status := x }

/-- `s` with the configuration registers replaced. -/
def State.setCfg (s : State) (c : HostRegs) : State := { s with cfg := c }

/-- `s` with memory replaced. -/
def State.setMem (s : State) (m : Memory) : State := { s with mem := m }

/-- `s` with `rdata` replaced. -/
def State.setRdata (s : State) (v : Word) : State := { s with rdata := v }

/-- `s` with the byte HOST last read replaced. -/
def State.setMdata (s : State) (b : Byte) : State := { s with mdata := b }

/-- `s` with the launch memory replaced. -/
def State.setLaunchMem (s : State) (m : Memory) : State := { s with launchMem := m }

/-- `s` with the runs HOST owes its duties on replaced. -/
def State.setOwed (s : State) (cs : List HostRegs) : State := { s with owed := cs }

/-- `s` with the agenda replaced. -/
def State.setAgenda (s : State) (es : List Event) : State := { s with agenda := es }

end Sys2Proof.Machine
end

