-- ==== Sys2Proof/Machine/Operands.lean ====
section
/-!
DEFINITION. The constant table (10_state.md R46) and every operand form: group wiring (30_encoding.md R101, R102), pixel
wiring (R103), operand assembly (R110), the floor shift (R170), saturation (43_saturate.md R180) and the colour function
(42_color_matrix.md R171). Arithmetic is on mathematical integers and narrows at the end (R11, R168).
-/

namespace Sys2Proof.Machine

/-- R46. -/
def coefVR : Int := 1673527
/-- R46. -/
def coefVG : Int := -852492
/-- R46. -/
def coefUG : Int := -409993
/-- R46. -/
def coefUB : Int := 2116026
/-- R46: the luma coefficient `C_Y`. -/
def coefY : Int := 1220542
/-- R46: `2^(SHIFT-1)`, one half in the fixed-point format (R109). -/
def bias : Int := 524288
/-- R46: `2^SHIFT` with `SHIFT = 20`. -/
def shiftDivisor : Int := 1048576
/-- R46. -/
def lumaFloor : Int := 16
/-- R46. -/
def chromaMid : Int := 128
/-- R46: the constant alpha. -/
def alpha : Byte := 255#8

/-- The byte offset of `Y0` in a group (R101). -/
def y0Pos : SourceOrder → Fin 4
  | .yuyv => 0
  | .yvyu => 0
  | .uyvy => 1
  | .vyuy => 1

/-- The byte offset of `Y1` in a group (R101). -/
def y1Pos : SourceOrder → Fin 4
  | .yuyv => 2
  | .yvyu => 2
  | .uyvy => 3
  | .vyuy => 3

/-- The byte offset of `U` in a group (R101). -/
def uPos : SourceOrder → Fin 4
  | .yuyv => 1
  | .yvyu => 3
  | .uyvy => 0
  | .vyuy => 2

/-- The byte offset of `V` in a group (R101). -/
def vPos : SourceOrder → Fin 4
  | .yuyv => 3
  | .yvyu => 1
  | .uyvy => 2
  | .vyuy => 0

/-- The byte offset of red in a pixel (R103). -/
def rPos : PixelOrder → Fin 4
  | .rgba => 0
  | .bgra => 2

/-- The byte offset of blue in a pixel (R103). -/
def bPos : PixelOrder → Fin 4
  | .rgba => 2
  | .bgra => 0

/-- Four bytes in address order: a group (R101) or a pixel (R103). -/
structure Quad where
  b0 : Byte
  b1 : Byte
  b2 : Byte
  b3 : Byte
  deriving DecidableEq, Repr

/-- The byte at an offset of a group or pixel. -/
def Quad.get (q : Quad) : Fin 4 → Byte
  | 0 => q.b0
  | 1 => q.b1
  | 2 => q.b2
  | 3 => q.b3

/-- The group registers as one group (R12, R38). -/
def Datapath.group (d : Datapath) : Quad := { b0 := d.g0, b1 := d.g1, b2 := d.g2, b3 := d.g3 }

/-- The samples of a pair (R39). -/
structure Samples where
  y0 : Byte
  y1 : Byte
  u : Byte
  v : Byte
  deriving DecidableEq, Repr

/-- A group routed to the luma and chroma samples (R101, R151). -/
def unpackGroup (o : SourceOrder) (g : Quad) : Samples :=
  { y0 := g.get (y0Pos o), y1 := g.get (y1Pos o), u := g.get (uPos o), v := g.get (vPos o) }

/-- One pixel in address order (R103, R190). -/
def packPixel (o : PixelOrder) (r g b : Byte) : Quad :=
  match o with
  | .rgba => { b0 := r, b1 := g, b2 := b, b3 := alpha }
  | .bgra => { b0 := b, b1 := g, b2 := r, b3 := alpha }

/-- Centred chroma as an integer (R110(b), R160): the raw byte is unsigned. -/
def centred (c : Byte) : Int := (c.toNat : Int) - chromaMid

/-- An exact integer narrowed to an accumulator (R11, R168: in range it is exact). -/
def toAccum (x : Int) : Accum := BitVec.ofInt 32 x

/-- The red offset term (R161). -/
def redTerm (sv : Int) : Int := bias + coefVR * sv

/-- The green offset term (R162). -/
def greenTerm (su sv : Int) : Int := bias + coefVG * sv + coefUG * su

/-- The blue offset term (R163). -/
def blueTerm (su : Int) : Int := bias + coefUB * su

/-- The scaled luma (R164): the floor at 16 is applied before the multiply, there is no clamp at 235. -/
def scaledLuma (y : Byte) : Int := max 0 ((y.toNat : Int) - lumaFloor) * coefY

/-- `x >>a 20`, the arithmetic shift: `floor(x / 2^20)` (R11, R170). -/
def asr20 (x : Int) : Int := x / shiftDivisor

/-- The shifted sum of a lane (R165 to R167): the sum is exact. -/
def shiftedSum (ys term : Accum) : Int := asr20 (ys.toInt + term.toInt)

/-- `sat8` (R180). -/
def sat8 (x : Int) : Byte := if x < 0 then 0#8 else if x ≤ 255 then BitVec.ofInt 8 x else 255#8

/-- Which luma sample the lane uses (R164). -/
def laneLuma (d : Datapath) (k : BitVec 1) : Byte := if k = 0#1 then d.y0 else d.y1

/-- Three colour channels (R171). -/
structure Rgb where
  r : Byte
  g : Byte
  b : Byte
  deriving DecidableEq, Repr

/-- The colour function in closed form (R171). -/
def csc (y u v : Byte) : Rgb :=
  { r := sat8 (asr20 (scaledLuma y + redTerm (centred v)))
    g := sat8 (asr20 (scaledLuma y + greenTerm (centred u) (centred v)))
    b := sat8 (asr20 (scaledLuma y + blueTerm (centred u))) }

/-- The pixel of a lane of a group: the per-pixel function of R206. -/
def groupPixel (l : Layout) (g : Quad) (k : BitVec 1) : Quad :=
  let p := unpackGroup l.source g
  let c := csc (if k = 0#1 then p.y0 else p.y1) p.u p.v
  packPixel l.pixel c.r c.g c.b

end Sys2Proof.Machine
end

