-- ==== Sys2Proof/Machine/Flags.lean ====
section
/-!
DEFINITION. The status flags (10_state.md R23, R33), the fault codes (60_exceptions.md R221) and the words HOST reads for
`STATUS` and `LAYOUT` (40_host_commands.md R130).
-/

namespace Sys2Proof.Machine

/-- The seven causes of a configuration fault, in the order of their codes (R221). -/
inductive ConfigFault where
  | dim
  | oddWidth
  | stride
  | srcSize
  | dstSize
  | addrWrap
  | overlap
  deriving DecidableEq, Repr

/-- The fault code recorded in `STATUS.ERRCODE` (R221). -/
def faultCode : ConfigFault → BitVec 4
  | .dim => 1
  | .oddWidth => 2
  | .stride => 3
  | .srcSize => 4
  | .dstSize => 5
  | .addrWrap => 6
  | .overlap => 7

/-- `STATUS` as `REGRD` returns it: `zext_32` of `ERRCODE`, 0, `ERR`, `DONE`, `BUSY` (R23, R130). -/
def statusWord (x : Status) : Word :=
  (x.errCode ++ 0#1 ++ BitVec.ofBool x.err ++ BitVec.ofBool x.done ++ BitVec.ofBool x.busy).setWidth 32

/-- `LAYOUT` as `REGRD` returns it: `zext_32` of `B_IDX`, `U_IDX`, `Y_IDX` (R31, R130). -/
def layoutWord (l : Layout) : Word :=
  let p := paramsOf l
  (BitVec.ofNat 2 p.bIdx ++ BitVec.ofNat 1 p.uIdx ++ BitVec.ofNat 1 p.yIdx).setWidth 32

/-- `STATUS` after an accepted `START` (R131). -/
def statusStarted : Status := { busy := true, done := false, err := false, errCode := 0 }

/-- `STATUS` after a configuration fault (R14, R223). -/
def statusFaulted (f : ConfigFault) : Status := { busy := false, done := false, err := true, errCode := faultCode f }

/-- `STATUS` after `FINISH`: `BUSY` and `DONE` are written, `ERR` and `ERRCODE` stay (R204). -/
def statusFinished (x : Status) : Status := { x with busy := false, done := true }

end Sys2Proof.Machine
end

