-- ==== Sys2Proof/Machine/Ops.lean ====
section
/-!
DEFINITION. The shared operations: bytes of memory and the access primitives (00_scope.md R13; 20_memory.md R74, R75, R92),
the regions of a run (R71, R72), the configuration check (45_sequencer.md R201), taking a configuration fault (00_scope.md
R14), and the host register file (10_state.md R21).
-/

namespace Sys2Proof.Machine

/-- What an address that memory does not list reads as. DESIGN CHOICE, unsafe (log 2). -/
def unlistedByte : Byte := 0#8

/-- One byte of memory. -/
def Memory.read : Memory → Nat → Byte
  | [], _ => unlistedByte
  | c :: cs, a => if c.1 = a then c.2 else Memory.read cs a

/-- A cell for `b` at `a`, unless an unlisted address reads the same. -/
def cellFor (a : Nat) (b : Byte) : Memory := if b = unlistedByte then [] else [(a, b)]

/-- Memory with one byte written, in canonical form: addresses rise, nothing listed that need not be. -/
def Memory.write : Memory → Nat → Byte → Memory
  | [], a, b => cellFor a b
  | c :: cs, a, b =>
    if a < c.1 then cellFor a b ++ c :: cs
    else if a = c.1 then cellFor a b ++ cs
    else c :: Memory.write cs a b

/-- The canonical form from a least address on: addresses rise strictly and lie in the address space (R70), and no cell
holds what an unlisted address reads as. -/
def Memory.wfFrom : Memory → Nat → Bool
  | [], _ => true
  | c :: cs, lo => decide (lo ≤ c.1) && decide (c.1 < 2 ^ 32) && decide (c.2 ≠ unlistedByte) && Memory.wfFrom cs (c.1 + 1)

/-- The canonical form of memory. -/
def Memory.wf (m : Memory) : Bool := Memory.wfFrom m 0

/-- The address of the byte at offset `i` of an access: `(addr + i) mod 2^AW` (R13). -/
def byteAddr (addr : Word) (i : Nat) : Nat := (addr + BitVec.ofNat 32 i).toNat

/-- `MemRead(addr, 4)` (R13, R74). -/
def readQuad (m : Memory) (addr : Word) : Quad :=
  { b0 := m.read (byteAddr addr 0), b1 := m.read (byteAddr addr 1), b2 := m.read (byteAddr addr 2),
    b3 := m.read (byteAddr addr 3) }

/-- `MemWrite(addr, n, b)`: the byte at offset `i` from `addr` becomes the `i`-th of `bs`, counted from `i = from` (R13,
R75). -/
def writeBytes (m : Memory) (addr : Word) : Nat → List Byte → Memory
  | _, [] => m
  | i, b :: bs => writeBytes (m.write (byteAddr addr i) b) addr (i + 1) bs

/-- What an access finds at its addresses. -/
inductive Answer where
  /-- Ordinary memory answers at every byte. -/
  | memory
  /-- Memory does not answer at some byte, and no byte is a device's (R92). -/
  | absent
  /-- Some byte is a device's (R79). -/
  | device
  deriving DecidableEq, Repr

/-- A window holds an address. -/
def Window.holds (w : Window) (a : Nat) : Bool := decide (w.base ≤ a) && decide (a < w.base + w.size)

/-- The address lies in a window of the given kind. -/
def inWindow (p : List Window) (k : WindowKind) (a : Nat) : Bool := p.any fun w => w.kind == k && w.holds a

/-- What answers at one address: a device window counts before an absent one (log 8). -/
def answerAt (p : List Window) (a : Nat) : Answer :=
  if inWindow p .device a then .device else if inWindow p .absent a then .absent else .memory

/-- The worse of two answers: device, then absent, then memory (log 8). -/
def Answer.and : Answer → Answer → Answer
  | .device, _ => .device
  | _, .device => .device
  | .absent, _ => .absent
  | _, .absent => .absent
  | .memory, .memory => .memory

/-- What answers an access of `n` bytes at `addr` (R74, R75). -/
def answers (p : List Window) (addr : Word) : Nat → Answer
  | 0 => .memory
  | n + 1 => (answers p addr n).and (answerAt p (byteAddr addr n))

/-- An access of `n` bytes at `addr`: it happens where ordinary memory answers; CONV has no step where memory does not
answer (R92), and an access to a device has no meaning (R79). -/
def withAccess (s : State) (addr : Word) (n : Nat) (after : State) : Host.Outcome State Fault Refusal :=
  match answers s.platform addr n with
  | .memory => .next after
  | .absent => .fault .memoryNotAdmitted
  | .device => .refused .deviceMemory

/-- The source extent in bytes, exact (R71, R201). -/
def srcExtent (c : HostRegs) : Nat := c.srcStride.toNat * c.height.toNat

/-- The destination extent in bytes, exact (R72, R201). -/
def dstExtent (c : HostRegs) : Nat := 4 * c.width.toNat * c.height.toNat

/-- The configuration check: the first condition that holds, in the order of R201 (R221, R222), on exact integers. -/
def checkFault (c : HostRegs) : Option ConfigFault :=
  if c.width.toNat = 0 ∨ c.height.toNat = 0 then some .dim
  else if c.width.toNat % 2 = 1 then some .oddWidth
  else if c.srcStride.toNat < 2 * c.width.toNat then some .stride
  else if c.srcLen.toNat < srcExtent c then some .srcSize
  else if c.dstLen.toNat < dstExtent c then some .dstSize
  else if 2 ^ 32 < c.srcBase.toNat + srcExtent c ∨ 2 ^ 32 < c.dstBase.toNat + dstExtent c then some .addrWrap
  else if c.srcBase.toNat < c.dstBase.toNat + dstExtent c ∧ c.dstBase.toNat < c.srcBase.toNat + srcExtent c then
    some .overlap
  else none

/-- Taking a configuration fault: `STATUS` records it, CONV becomes idle, nothing else changes (R14, R223). There is no
handler and no return; an accepted `START` clears the fault (R224). -/
def raiseConfigFault (f : ConfigFault) (s : State) : State := (s.setStatus (statusFaulted f)).goto 0x00#5

/-- The address is in the source payload set of the configuration (R71): in row `r < HEIGHT`, column byte `c < 2 * WIDTH`.
The row tried is the last one that starts at or below the address. -/
def inPayload (c : HostRegs) (a : Nat) : Bool :=
  let d := a - c.srcBase.toNat
  let r := min (d / c.srcStride.toNat) (c.height.toNat - 1)
  decide (0 < c.height.toNat) && decide (c.srcBase.toNat ≤ a) && decide (d - r * c.srcStride.toNat < 2 * c.width.toNat)

/-- The address is in the destination region of the configuration (R72). -/
def inDestination (c : HostRegs) (a : Nat) : Bool :=
  decide (c.dstBase.toNat ≤ a) && decide (a < c.dstBase.toNat + dstExtent c)

/-- The address is in the source region of the configuration, padding included (R71). -/
def inSource (c : HostRegs) (a : Nat) : Bool :=
  decide (c.srcBase.toNat ≤ a) && decide (a < c.srcBase.toNat + srcExtent c)

/-- A window shares an address with the range `[base, base + size)`. -/
def Window.meets (w : Window) (base size : Nat) : Bool :=
  decide (w.base < base + size) && decide (base < w.base + w.size) && decide (0 < w.size) && decide (0 < size)

/-- A region of the launch touches a device (R79, U13). -/
def launchOnDevice (s : State) : Bool :=
  s.platform.any fun w =>
    w.kind == .device &&
      (w.meets s.cfg.srcBase.toNat (srcExtent s.cfg) || w.meets s.cfg.dstBase.toNat (dstExtent s.cfg))

/-- What a read of host register `n` returns (R21, R130). -/
def readSlot (s : State) (n : SlotNo) : Word :=
  match n.toNat with
  | 0 => 0#32
  | 1 => statusWord s.status
  | 2 => s.cfg.srcBase
  | 3 => s.cfg.srcStride
  | 4 => s.cfg.srcLen
  | 5 => s.cfg.dstBase
  | 6 => s.cfg.dstLen
  | 7 => s.cfg.width
  | 8 => s.cfg.height
  | 9 => layoutWord s.layout
  | _ => 0#32

/-- The runs whose end HOST has not seen, after it read host register `n`: a read of `STATUS` that shows `BUSY = 0` has seen
them all (R256; log 9). -/
def owedAfterRead (s : State) (n : SlotNo) : List HostRegs := if n = 1#4 ∧ s.status.busy = false then [] else s.owed

/-- The runs on whose buffers HOST has duties: the one in progress (R87), and every one whose end it has not seen (R256). -/
def dutyRuns (s : State) : List HostRegs := if s.status.busy then s.cfg :: s.owed else s.owed

/-- A configuration write: it takes effect only while the block is idle (R133 to R139, R254). -/
def writeCfg (s : State) (c : HostRegs) : State := if s.status.busy then s else s.setCfg c

/-- The bytes of `P0` to `P7` in address order (R45, R191). -/
def Datapath.pairBytes (d : Datapath) : List Byte := [d.p0, d.p1, d.p2, d.p3, d.p4, d.p5, d.p6, d.p7]

/-- The four bytes from an address of a frame (R104): inside a region that passed `CHECK` no address wraps. -/
def groupAt (m : Memory) (a : Nat) : Quad :=
  { b0 := m.read a, b1 := m.read (a + 1), b2 := m.read (a + 2), b3 := m.read (a + 3) }

/-- The address of group `p` of row `r` of the source frame (R104). -/
def groupAddr (c : HostRegs) (r p : Nat) : Nat := c.srcBase.toNat + r * c.srcStride.toNat + 4 * p

/-- The address of the pixel in row `r`, column `x` of the destination frame (R72, R105). -/
def pixelAddr (c : HostRegs) (r x : Nat) : Nat := c.dstBase.toNat + 4 * (r * c.width.toNat + x)

/-- The final value of the byte at offset `j` of the destination region, from the memory of the launch (R206). -/
def finalByte (l : Layout) (c : HostRegs) (m0 : Memory) (j : Nat) : Byte :=
  let row := j / 4 / c.width.toNat
  let x := j / 4 % c.width.toNat
  (groupPixel l (groupAt m0 (groupAddr c row (x / 2))) (BitVec.ofNat 1 (x % 2))).get (Fin.ofNat 4 j)

end Sys2Proof.Machine
end

