-- ==== Sys2Proof/Machine/HostCommands.lean ====
section
/-!
DEFINITION. The 14 host commands (40_host_commands.md R130 to R144). Each is accepted at once and completes (R144).
-/

namespace Sys2Proof.Machine

/-- What a step answers. -/
abbrev Result := Host.Outcome State Fault Refusal

/-- `REGRD n`: the register's value is returned in `rdata`; no state of the block changes (R130, R80). A `STATUS` read that
shows `BUSY = 0` ends HOST's duties (R256; log 9). -/
def execRegrd (n : SlotNo) (s : State) : Result := .next ((s.setRdata (readSlot s n)).setOwed (owedAfterRead s n))

/-- What an accepted `START` leaves (R131). The launch memory and the run HOST now owes its duties on are the model's own
records (logs 9, 12). -/
def launched (s : State) : State :=
  (((s.setStatus statusStarted).goto 0x01#5).setLaunchMem s.mem).setOwed (s.cfg :: s.owed)

/-- `START`: accepted while idle, ignored while busy (R131). -/
def execStart (s : State) : Result := .next (if s.status.busy then s else launched s)

/-- `CTRLNOP`: nothing (R132). -/
def execCtrlnop (s : State) : Result := .next s

/-- `WR_SRC_BASE v` (R133). -/
def execWrSrcBase (v : Word) (s : State) : Result := .next (writeCfg s { s.cfg with srcBase := v })

/-- `WR_SRC_STRIDE v` (R134). -/
def execWrSrcStride (v : Word) (s : State) : Result := .next (writeCfg s { s.cfg with srcStride := v })

/-- `WR_SRC_LEN v` (R135). -/
def execWrSrcLen (v : Word) (s : State) : Result := .next (writeCfg s { s.cfg with srcLen := v })

/-- `WR_DST_BASE v` (R136). -/
def execWrDstBase (v : Word) (s : State) : Result := .next (writeCfg s { s.cfg with dstBase := v })

/-- `WR_DST_LEN v` (R137). -/
def execWrDstLen (v : Word) (s : State) : Result := .next (writeCfg s { s.cfg with dstLen := v })

/-- `WR_WIDTH v` (R138). -/
def execWrWidth (v : Word) (s : State) : Result := .next (writeCfg s { s.cfg with width := v })

/-- `WR_HEIGHT v` (R139). -/
def execWrHeight (v : Word) (s : State) : Result := .next (writeCfg s { s.cfg with height := v })

/-- `WRIGN.STATUS v`: `STATUS` is read-only (R140). -/
def execWrignStatus (_v : Word) (s : State) : Result := .next s

/-- `WRIGN.LAYOUT v`: `LAYOUT` is read-only (R141). -/
def execWrignLayout (_v : Word) (s : State) : Result := .next s

/-- `WRIGN.R10 v`: slots 10 and 11 ignore writes (R142). -/
def execWrignR10 (_n : SlotNo) (_v : Word) (s : State) : Result := .next s

/-- `WRIGN.R12 v`: slots 12 to 15 ignore writes (R143). -/
def execWrignR12 (_n : SlotNo) (_v : Word) (s : State) : Result := .next s

end Sys2Proof.Machine
end

