-- ==== Sys2Proof/Machine/ColorMatrix.lean ====
section
/-!
DEFINITION. The fixed-point colour-matrix multiply (42_color_matrix.md R160 to R167). None of these writes a flag, touches
memory or can fault.
-/

namespace Sys2Proof.Machine

/-- `CENTER` (R160). -/
def execCenter (s : State) : Result :=
  .next ((s.setDp { s.dp with su := BitVec.ofInt 8 (centred s.dp.u), sv := BitVec.ofInt 8 (centred s.dp.v) }).goto 0x05#5)

/-- `RTERM` (R161). -/
def execRterm (s : State) : Result :=
  .next ((s.setDp { s.dp with rt := toAccum (redTerm s.dp.sv.toInt) }).goto 0x06#5)

/-- `GTERM` (R162). -/
def execGterm (s : State) : Result :=
  .next ((s.setDp { s.dp with gt := toAccum (greenTerm s.dp.su.toInt s.dp.sv.toInt) }).goto 0x07#5)

/-- `BTERM` (R163). -/
def execBterm (s : State) : Result :=
  .next ((s.setDp { s.dp with bt := toAccum (blueTerm s.dp.su.toInt) }).goto 0x08#5)

/-- `YSCALE` (R164): `Y0` in lane 0, `Y1` in lane 1. -/
def execYscale (s : State) : Result :=
  .next ((s.setDp { s.dp with ys := toAccum (scaledLuma (laneLuma s.dp s.seq.k)) }).goto 0x09#5)

/-- `RSUM` (R165). -/
def execRsum (s : State) : Result :=
  .next ((s.setDp { s.dp with rs := toAccum (shiftedSum s.dp.ys s.dp.rt) }).goto 0x0A#5)

/-- `GSUM` (R166). -/
def execGsum (s : State) : Result :=
  .next ((s.setDp { s.dp with gs := toAccum (shiftedSum s.dp.ys s.dp.gt) }).goto 0x0B#5)

/-- `BSUM` (R167). -/
def execBsum (s : State) : Result :=
  .next ((s.setDp { s.dp with bs := toAccum (shiftedSum s.dp.ys s.dp.bt) }).goto 0x0C#5)

end Sys2Proof.Machine
end

