-- ==== Sys2Proof/Machine/FetchUnpack.lean ====
section
/-!
DEFINITION. The front of the pipeline: `FETCH4` and `UNPACK` (41_fetch_unpack.md R150, R151).
-/

namespace Sys2Proof.Machine

/-- `FETCH4`: the four bytes at `SCUR` go to `G0` to `G3` as they are, and `K <- 0` (R150). CONV has no step where memory
does not answer (R92). -/
def execFetch4 (s : State) : Result :=
  let g := readQuad s.mem s.seq.scur
  withAccess s s.seq.scur 4
    ((s.setDp { s.dp with g0 := g.b0, g1 := g.b1, g2 := g.b2, g3 := g.b3 }).setSeq { s.seq with k := 0#1, phase := 0x03#5 })

/-- `UNPACK`: the group's bytes go to `Y0`, `Y1`, `U`, `V` by the layout's wiring (R151). -/
def execUnpack (s : State) : Result :=
  let p := unpackGroup s.layout.source s.dp.group
  .next ((s.setDp { s.dp with y0 := p.y0, y1 := p.y1, u := p.u, v := p.v }).goto 0x04#5)

end Sys2Proof.Machine
end

