-- ==== Sys2Proof/Machine/PackStore.lean ====
section
/-!
DEFINITION. The component packer and the store (44_packer_store.md R190, R191).
-/

namespace Sys2Proof.Machine

/-- `PACK`: the lane's pixel goes to `P0` to `P3` or `P4` to `P7`; the first lane goes round again, the second goes to the
store (R190). -/
def execPack (s : State) : Result :=
  let q := packPixel s.layout.pixel s.dp.r8 s.dp.g8 s.dp.b8
  .next (if s.seq.k = 0#1 then
      (s.setDp { s.dp with p0 := q.b0, p1 := q.b1, p2 := q.b2, p3 := q.b3 }).setSeq { s.seq with k := 1#1, phase := 0x08#5 }
    else
      (s.setDp { s.dp with p4 := q.b0, p5 := q.b1, p6 := q.b2, p7 := q.b3 }).goto 0x10#5)

/-- `STORE8`: the eight bytes of the pair go to memory at `DCUR` (R191). CONV has no step where memory does not accept them
(R92). -/
def execStore8 (s : State) : Result :=
  withAccess s s.seq.dcur 8 ((s.setMem (writeBytes s.mem s.seq.dcur 0 s.dp.pairBytes)).goto 0x11#5)

end Sys2Proof.Machine
end

