-- ==== Sys2Proof/Machine/Saturate.lean ====
section
/-!
DEFINITION. Saturation to a byte (43_saturate.md R181 to R183): the shifted value is saturated (90_conflicts.md C1); no flag
records a clamp.
-/

namespace Sys2Proof.Machine

/-- `SATR` (R181). -/
def execSatr (s : State) : Result := .next ((s.setDp { s.dp with r8 := sat8 s.dp.rs.toInt }).goto 0x0D#5)

/-- `SATG` (R182). -/
def execSatg (s : State) : Result := .next ((s.setDp { s.dp with g8 := sat8 s.dp.gs.toInt }).goto 0x0E#5)

/-- `SATB` (R183). -/
def execSatb (s : State) : Result := .next ((s.setDp { s.dp with b8 := sat8 s.dp.bs.toInt }).goto 0x0F#5)

end Sys2Proof.Machine
end

