-- ==== Sys2Proof/Machine/Sequencer.lean ====
section
/-!
DEFINITION. The sequencer (45_sequencer.md R200 to R204).
-/

namespace Sys2Proof.Machine

/-- `IDLE`: CONV has no step; no state changes (R200). -/
def execIdle (s : State) : Result := .next s

/-- The cursors as `CHECK` sets them when no condition holds (R201). -/
def cursorsAtLaunch (s : State) : SeqRegs :=
  { s.seq with row := 0#32, col := 0#32, srow := s.cfg.srcBase, scur := s.cfg.srcBase, drow := s.cfg.dstBase,
               dcur := s.cfg.dstBase, phase := 0x02#5 }

/-- `CHECK`: the first condition of R201 that holds is taken as a configuration fault; otherwise the cursors are set. A
legal launch on device memory has no meaning (R79, U13; log 8). -/
def execCheck (s : State) : Result :=
  match checkFault s.cfg with
  | some f => .next (raiseConfigFault f s)
  | none => if launchOnDevice s then .refused .deviceMemory else .next (s.setSeq (cursorsAtLaunch s))

/-- `ADVANCE`: cursors modulo `2^AW`; the loop test is on exact integers (R202, R11; log 14). -/
def execAdvance (s : State) : Result :=
  .next (s.setSeq { s.seq with
    scur := s.seq.scur + 4#32
    dcur := s.seq.dcur + 8#32
    col := s.seq.col + 1#32
    phase := if s.cfg.width.toNat ≤ 2 * (s.seq.col.toNat + 1) then 0x12#5 else 0x02#5 })

/-- `NEXTROW`: row pointers modulo `2^AW`, cursors reloaded from them; the loop test is on exact integers (R203; log 14). -/
def execNextrow (s : State) : Result :=
  let srow' := s.seq.srow + s.cfg.srcStride
  let drow' := s.seq.drow + 4#32 * s.cfg.width
  .next (s.setSeq { s.seq with
    srow := srow'
    scur := srow'
    drow := drow'
    dcur := drow'
    col := 0#32
    row := s.seq.row + 1#32
    phase := if s.cfg.height.toNat ≤ s.seq.row.toNat + 1 then 0x13#5 else 0x02#5 })

/-- `FINISH`: the run ends (R204). Every store of the run has been performed before this step (R86). -/
def execFinish (s : State) : Result := .next ((s.setStatus (statusFinished s.status)).goto 0x00#5)

end Sys2Proof.Machine
end

