-- ==== Sys2Proof/Machine/Dispatch.lean ====
section
/-!
DEFINITION. Which meaning each instruction has: one arm per row of spec/opcode_table.json.
-/

namespace Sys2Proof.Machine

def exec (i : Instr) (s : State) : Host.Outcome State Fault Refusal :=
  match i with
  | .regrd n => Sys2Proof.Machine.execRegrd n s
  | .start => Sys2Proof.Machine.execStart s
  | .ctrlnop => Sys2Proof.Machine.execCtrlnop s
  | .wrignStatus v => Sys2Proof.Machine.execWrignStatus v s
  | .wrSrcBase v => Sys2Proof.Machine.execWrSrcBase v s
  | .wrSrcStride v => Sys2Proof.Machine.execWrSrcStride v s
  | .wrSrcLen v => Sys2Proof.Machine.execWrSrcLen v s
  | .wrDstBase v => Sys2Proof.Machine.execWrDstBase v s
  | .wrDstLen v => Sys2Proof.Machine.execWrDstLen v s
  | .wrWidth v => Sys2Proof.Machine.execWrWidth v s
  | .wrHeight v => Sys2Proof.Machine.execWrHeight v s
  | .wrignLayout v => Sys2Proof.Machine.execWrignLayout v s
  | .wrignR10 n v => Sys2Proof.Machine.execWrignR10 n v s
  | .wrignR12 n v => Sys2Proof.Machine.execWrignR12 n v s
  | .idle => Sys2Proof.Machine.execIdle s
  | .check => Sys2Proof.Machine.execCheck s
  | .fetch4 => Sys2Proof.Machine.execFetch4 s
  | .unpack => Sys2Proof.Machine.execUnpack s
  | .center => Sys2Proof.Machine.execCenter s
  | .rterm => Sys2Proof.Machine.execRterm s
  | .gterm => Sys2Proof.Machine.execGterm s
  | .bterm => Sys2Proof.Machine.execBterm s
  | .yscale => Sys2Proof.Machine.execYscale s
  | .rsum => Sys2Proof.Machine.execRsum s
  | .gsum => Sys2Proof.Machine.execGsum s
  | .bsum => Sys2Proof.Machine.execBsum s
  | .satr => Sys2Proof.Machine.execSatr s
  | .satg => Sys2Proof.Machine.execSatg s
  | .satb => Sys2Proof.Machine.execSatb s
  | .pack => Sys2Proof.Machine.execPack s
  | .store8 => Sys2Proof.Machine.execStore8 s
  | .advance => Sys2Proof.Machine.execAdvance s
  | .nextrow => Sys2Proof.Machine.execNextrow s
  | .finish => Sys2Proof.Machine.execFinish s

end Sys2Proof.Machine
end

