-- ==== Sys2Proof/Machine/Environment.lean ====
section
/-!
DEFINITION. What happens around the block: HOST's reads and writes of memory and its duties (20_memory.md R87, R88;
70_reset_and_hazards.md R256), the reset input (70_reset_and_hazards.md R250 to R252), and what the next event fetches.
-/

namespace Sys2Proof.Machine

/-- The duty a HOST read of `a` would break (R87(b), R256). -/
def dutyOfRead (s : State) (a : Nat) : Option Duty :=
  if (dutyRuns s).any (inDestination · a) then some .leaveDestinationUnread else none

/-- The duty a HOST write to `a` would break (R87(a), (c), R256). -/
def dutyOfWrite (s : State) (a : Nat) : Option Duty :=
  if (dutyRuns s).any (inPayload · a) then some .keepSource
  else if (dutyRuns s).any (inDestination · a) then some .leaveDestinationUnwritten
  else none

/-- HOST reads a byte of memory. A breach of duty has no meaning (R88; log 9). -/
def hostRead (a : Word) (s : State) : Result :=
  match dutyOfRead s a.toNat with
  | some d => .refused (.dutyBroken d)
  | none => withAccess s a 1 (s.setMdata (s.mem.read a.toNat))

/-- HOST writes a byte of memory. A breach of duty has no meaning (R88; log 9); padding may be written at any time (R87). -/
def hostWrite (a : Word) (b : Byte) (s : State) : Result :=
  match dutyOfWrite s a.toNat with
  | some d => .refused (.dutyBroken d)
  | none => withAccess s a 1 (s.setMem (s.mem.write a.toNat b))

/-- The destination region after a run was cut short: the first `n` bytes, each its final value or what it was before the
run, as the free choice says; a byte that is not ordinary memory is not written (R252, U9; log 12). -/
def landBytes (s : State) : Nat → Memory → Memory
  | 0, m => m
  | n + 1, m =>
    let a := s.cfg.dstBase.toNat + n
    let landed := Config.landsAtReset s.draws a && answerAt s.platform a == .memory
    Memory.write (landBytes s n m) a (if landed then finalByte s.layout s.cfg s.launchMem n else s.launchMem.read a)

/-- Memory after reset: reset does not touch it (R250), but a run it cuts short leaves the destination region partly
written (R252). -/
def memAfterReset (s : State) : Memory :=
  if s.status.busy && (checkFault s.cfg).isNone then landBytes s (dstExtent s.cfg) s.mem else s.mem

/-- The reset input (R250): the block's registers as in R50; memory, the platform, what HOST holds and owes and the events to
come stay. -/
def resetInput (s : State) : State :=
  { s with cfg := HostRegs.zero, status := Status.zero, seq := SeqRegs.afterReset, dp := Datapath.afterReset,
           mem := memAfterReset s, draws := s.draws + 1 }

/-- The event of the next step: the first of the agenda, CONV's turn when none is in store (log 4). -/
def nextEvent (s : State) : Event :=
  match s.agenda with
  | [] => .conv
  | e :: _ => e

/-- The state with the next event taken off the agenda. -/
def takeEvent (s : State) : State := s.setAgenda s.agenda.tail

/-- A state whose next step executes the given instruction word (log 17): a host transaction is put first on the agenda; a
`PHASE` code is put into `PHASE` and CONV given the turn. -/
def placeWord (s : State) (nbits w : Nat) : State :=
  if nbits ≤ 8 then (s.goto (BitVec.ofNat 5 w)).setAgenda (.conv :: s.agenda)
  else s.setAgenda (.command (BitVec.ofNat 37 w) :: s.agenda)

end Sys2Proof.Machine
end

