-- ==== Sys2Proof/Machine/Step.lean ====
section
/-!
DEFINITION. One step of the machine: the next event of the agenda (00_scope.md R8, R9; 40_host_commands.md R144).
-/

namespace Sys2Proof.Machine

/-- Executes the instruction of a word; a reserved `PHASE` code leaves CONV stuck (30_encoding.md R111). -/
def runWord (c : CodeWord) (s : State) : Host.Outcome State Fault Refusal :=
  match decode c with
  | .ok i => exec i s
  | .error (.reservedPhase p) => .fault (.reservedPhase p)

/-- One event happens: a HOST transaction, CONV's turn, a HOST access to memory, or reset. -/
def happen (e : Event) (s : State) : Host.Outcome State Fault Refusal :=
  match e with
  | .command w => runWord (.ht w) s
  | .conv => runWord (.uop s.seq.phase) s
  | .hostRead a => hostRead a s
  | .hostWrite a b => hostWrite a b s
  | .reset => .next (resetInput s)

/-- One step: the next event is taken off the agenda and happens. -/
def step (s : State) : Host.Outcome State Fault Refusal := happen (nextEvent s) (takeEvent s)

/-- The state whose next step executes the instruction whose bits are `w` (log 17). -/
def State.withFetchWord (s : State) (nbits w : Nat) : State := placeWord s nbits w

end Sys2Proof.Machine
end

