-- ==== Sys2Proof/Safety.lean ====
section
/-!
DEFINITION. What counts as a legal state of the block and as a run done right, in the terms the statements use.
-/

namespace Sys2Proof.Safety

open Sys2Proof.Machine

/-- The legal contents of `STATUS`: one of the four combinations of R23, and `ERRCODE` a code of R221 exactly when `ERR`. -/
def StatusLegal (x : Status) : Prop :=
  ((x.busy = false ∧ x.done = false ∧ x.err = false) ∨ (x.busy = true ∧ x.done = false ∧ x.err = false) ∨
    (x.busy = false ∧ x.done = true ∧ x.err = false) ∨ (x.busy = false ∧ x.done = false ∧ x.err = true)) ∧
  (x.err = false → x.errCode = 0#4) ∧ (x.err = true → 1 ≤ x.errCode.toNat ∧ x.errCode.toNat ≤ 7)

/-- The control state is one a run can be in: legal flags (R23), `PHASE = IDLE` exactly when `BUSY = 0` (R34), and `PHASE`
one of the 20 codes (R34, R111). -/
def ControlInv (s : State) : Prop :=
  StatusLegal s.status ∧ (s.seq.phase = 0x00#5 ↔ s.status.busy = false) ∧ s.seq.phase.toNat < 0x14

/-- Memory is in canonical form (log 2). -/
def MemoryInv (s : State) : Prop := s.mem.wf = true ∧ s.launchMem.wf = true

/-- `ROW`, `SROW`, `DROW` are those of a row of the frame, without wrap (R36, R37). -/
def RowCursors (s : State) : Prop :=
  s.seq.row.toNat < s.cfg.height.toNat ∧
  s.seq.srow.toNat = s.cfg.srcBase.toNat + s.seq.row.toNat * s.cfg.srcStride.toNat ∧
  s.seq.drow.toNat = s.cfg.dstBase.toNat + s.seq.row.toNat * (4 * s.cfg.width.toNat)

/-- `COL`, `SCUR`, `DCUR` are those of a pair of the row, without wrap (R36, R37). -/
def PairCursors (s : State) : Prop :=
  2 * s.seq.col.toNat < s.cfg.width.toNat ∧
  s.seq.scur.toNat = s.seq.srow.toNat + 4 * s.seq.col.toNat ∧
  s.seq.dcur.toNat = s.seq.drow.toNat + 8 * s.seq.col.toNat

/-- The cursors of a run (R36, R37): past `CHECK` the configuration is one `CHECK` accepts; from `FETCH4` to `ADVANCE` the
cursors point at the pair (`ROW`, `COL`); at `NEXTROW` the row is complete; at `FINISH` every row is. -/
def CursorInv (s : State) : Prop :=
  (0x02 ≤ s.seq.phase.toNat → checkFault s.cfg = none) ∧
  (0x02 ≤ s.seq.phase.toNat ∧ s.seq.phase.toNat ≤ 0x11 → RowCursors s ∧ PairCursors s) ∧
  (s.seq.phase.toNat = 0x12 → RowCursors s ∧ 2 * s.seq.col.toNat = s.cfg.width.toNat) ∧
  (s.seq.phase.toNat = 0x13 → s.seq.row.toNat = s.cfg.height.toNat)

/-- The first pixel of the packed pair, `P0` to `P3` (R45). -/
def firstPixel (d : Datapath) : Quad := { b0 := d.p0, b1 := d.p1, b2 := d.p2, b3 := d.p3 }

/-- The second pixel of the packed pair, `P4` to `P7` (R45). -/
def secondPixel (d : Datapath) : Quad := { b0 := d.p4, b1 := d.p5, b2 := d.p6, b3 := d.p7 }

/-- The sample registers as one record (R39). -/
def samplesOf (d : Datapath) : Samples := { y0 := d.y0, y1 := d.y1, u := d.u, v := d.v }

/-- What the datapath holds once per pair, by the phase about to execute (R151, R160 to R163). -/
def PairStage (s : State) : Prop :=
  let p := s.seq.phase.toNat
  let d := s.dp
  (0x03 ≤ p ∧ p ≤ 0x07 → s.seq.k = 0#1) ∧
  (0x04 ≤ p ∧ p ≤ 0x0F → samplesOf d = unpackGroup s.layout.source d.group) ∧
  (0x05 ≤ p ∧ p ≤ 0x0F → d.su.toInt = centred d.u ∧ d.sv.toInt = centred d.v) ∧
  (0x06 ≤ p ∧ p ≤ 0x0F → d.rt.toInt = redTerm (centred d.v)) ∧
  (0x07 ≤ p ∧ p ≤ 0x0F → d.gt.toInt = greenTerm (centred d.u) (centred d.v)) ∧
  (0x08 ≤ p ∧ p ≤ 0x0F → d.bt.toInt = blueTerm (centred d.u))

/-- What the datapath holds for the current lane, by the phase about to execute (R164 to R167, R171, R181 to R183). -/
def LaneStage (s : State) : Prop :=
  let p := s.seq.phase.toNat
  let d := s.dp
  let y := laneLuma d s.seq.k
  (0x09 ≤ p ∧ p ≤ 0x0F → d.ys.toInt = scaledLuma y) ∧
  (0x0A ≤ p ∧ p ≤ 0x0F → d.rs.toInt = asr20 (scaledLuma y + redTerm (centred d.v))) ∧
  (0x0B ≤ p ∧ p ≤ 0x0F → d.gs.toInt = asr20 (scaledLuma y + greenTerm (centred d.u) (centred d.v))) ∧
  (0x0C ≤ p ∧ p ≤ 0x0F → d.bs.toInt = asr20 (scaledLuma y + blueTerm (centred d.u))) ∧
  (0x0D ≤ p ∧ p ≤ 0x0F → d.r8 = (csc y d.u d.v).r) ∧
  (0x0E ≤ p ∧ p ≤ 0x0F → d.g8 = (csc y d.u d.v).g) ∧
  (p = 0x0F → d.b8 = (csc y d.u d.v).b)

/-- What the packed bytes hold, by the phase about to execute (R190): in the second lane the first pixel is packed, at
`STORE8` both are. -/
def PackStage (s : State) : Prop :=
  let p := s.seq.phase.toNat
  let d := s.dp
  (0x08 ≤ p ∧ p ≤ 0x0F ∧ s.seq.k = 1#1 → firstPixel d = groupPixel s.layout d.group 0#1) ∧
  (p = 0x10 → firstPixel d = groupPixel s.layout d.group 0#1 ∧ secondPixel d = groupPixel s.layout d.group 1#1)

/-- The datapath of a run: every register holds what the operations before it computed from the group (R52, R171). -/
def DatapathInv (s : State) : Prop := PairStage s ∧ LaneStage s ∧ PackStage s

/-- How many bytes of the destination region CONV has written (R83, R205): none before `FETCH4`, then the rows and pairs before
the cursor, and at `ADVANCE` the pair just stored. -/
def bytesDone (s : State) : Nat :=
  if s.seq.phase.toNat < 0x02 then 0
  else 4 * (s.seq.row.toNat * s.cfg.width.toNat +
    (if s.seq.phase.toNat = 0x13 then 0
     else if s.seq.phase.toNat = 0x11 then 2 * (s.seq.col.toNat + 1)
     else 2 * s.seq.col.toNat))

/-- The memory of a run in progress (R206): the payload is as it was at the launch, the bytes written so far are final, the
bytes of the destination region not yet written are as they were at the launch, and the group registers hold the launch's
bytes at `SCUR`. -/
def FrameInv (s : State) : Prop :=
  (s.status.busy = true → ∀ a, inPayload s.cfg a = true → s.mem.read a = s.launchMem.read a) ∧
  (0x02 ≤ s.seq.phase.toNat → ∀ j, j < bytesDone s →
    s.mem.read (s.cfg.dstBase.toNat + j) = finalByte s.layout s.cfg s.launchMem j) ∧
  (s.status.busy = true → ∀ j, bytesDone s ≤ j → j < dstExtent s.cfg →
    s.mem.read (s.cfg.dstBase.toNat + j) = s.launchMem.read (s.cfg.dstBase.toNat + j)) ∧
  (0x03 ≤ s.seq.phase.toNat ∧ s.seq.phase.toNat ≤ 0x10 → s.dp.group = groupAt s.launchMem s.seq.scur.toNat)

/-- Everything a run keeps, whatever HOST does within its duties. -/
def RunInv (s : State) : Prop := ControlInv s ∧ MemoryInv s ∧ CursorInv s ∧ DatapathInv s ∧ FrameInv s

/-- Row `r` of the destination region of a memory holds the converted row of the launch memory `m0` (R206). -/
def RowConverted (l : Layout) (c : HostRegs) (m0 m : Memory) (r : Nat) : Prop :=
  ∀ p k, p < c.width.toNat / 2 → k < 2 →
    let g := groupAt m0 (groupAddr c r p)
    let x := unpackGroup l.source g
    let rgb := csc (if k = 0 then x.y0 else x.y1) x.u x.v
    let a := pixelAddr c r (2 * p + k)
    m.read (a + (rPos l.pixel).val) = rgb.r ∧ m.read (a + 1) = rgb.g ∧ m.read (a + (bPos l.pixel).val) = rgb.b ∧
      m.read (a + 3) = 255#8

/-- The destination region of a memory holds the converted frame of the launch memory `m0` (R206). -/
def FrameConverted (l : Layout) (c : HostRegs) (m0 m : Memory) : Prop :=
  ∀ r, r < c.height.toNat → RowConverted l c m0 m r

/-- The configuration that converts the `n` rows from row `r0` on (R209). -/
def rowRange (c : HostRegs) (r0 n : Nat) : HostRegs :=
  { c with
    srcBase := BitVec.ofNat 32 (c.srcBase.toNat + r0 * c.srcStride.toNat)
    dstBase := BitVec.ofNat 32 (c.dstBase.toNat + r0 * (4 * c.width.toNat))
    height := BitVec.ofNat 32 n }

/-- Ordinary memory answers everywhere in both regions of the configuration (R92, R79). -/
def RegionsAnswer (s : State) : Prop :=
  ∀ a, inSource s.cfg a = true ∨ inDestination s.cfg a = true → answerAt s.platform a = .memory

/-- The condition of each fault code, on the registers as programmed, in exact integers (R221). -/
def FaultHolds (c : HostRegs) : ConfigFault → Prop
  | .dim => c.width.toNat = 0 ∨ c.height.toNat = 0
  | .oddWidth => c.width.toNat % 2 = 1
  | .stride => c.srcStride.toNat < 2 * c.width.toNat
  | .srcSize => c.srcLen.toNat < c.srcStride.toNat * c.height.toNat
  | .dstSize => c.dstLen.toNat < 4 * c.width.toNat * c.height.toNat
  | .addrWrap => c.srcBase.toNat + c.srcStride.toNat * c.height.toNat > 2 ^ 32 ∨
      c.dstBase.toNat + 4 * c.width.toNat * c.height.toNat > 2 ^ 32
  | .overlap => c.srcBase.toNat < c.dstBase.toNat + 4 * c.width.toNat * c.height.toNat ∧
      c.dstBase.toNat < c.srcBase.toNat + c.srcStride.toNat * c.height.toNat

/-- HOST has its duties on the buffers of a run with configuration `c`: the run is in progress (R87), or HOST has not yet read a
`STATUS` that shows `BUSY = 0` since (R256; log 9). -/
def Owes (s : State) (c : HostRegs) : Prop := (s.status.busy = true ∧ c = s.cfg) ∨ c ∈ s.owed

/-- The number of CONV steps of a run that passes `CHECK` (R207). -/
def runLength (c : HostRegs) : Nat := 12 * c.width.toNat * c.height.toNat + c.height.toNat + 2

/-- A run of `n` steps that meets no fault and no refusal. -/
def RunsSafely (n : Nat) (s : State) : Prop := ∃ t, Host.Core.run Sys2Proof.core n s = .next t

end Sys2Proof.Safety
end

