-- ==== Sys2Proof/WellFormed.lean ====
section
/-!
DEFINITION. Well-formed instructions (30_encoding.md R115: which register numbers a row admits) and legal build-time
parameters (R113).
-/

namespace Sys2Proof

/-- The operands are ones the instruction's row of R115 can encode: `WRIGN.R10` names slot 10 or 11, `WRIGN.R12` slot 12 to
15. Every other operand field is as wide as its type. -/
def Instr.wf : Instr → Bool
  | .regrd _ => true
  | .start => true
  | .ctrlnop => true
  | .wrignStatus _ => true
  | .wrSrcBase _ => true
  | .wrSrcStride _ => true
  | .wrSrcLen _ => true
  | .wrDstBase _ => true
  | .wrDstLen _ => true
  | .wrWidth _ => true
  | .wrHeight _ => true
  | .wrignLayout _ => true
  | .wrignR10 n _ => n = 10#4 || n = 11#4
  | .wrignR12 n _ => n = 12#4 || n = 13#4 || n = 14#4 || n = 15#4
  | .idle => true
  | .check => true
  | .fetch4 => true
  | .unpack => true
  | .center => true
  | .rterm => true
  | .gterm => true
  | .bterm => true
  | .yscale => true
  | .rsum => true
  | .gsum => true
  | .bsum => true
  | .satr => true
  | .satg => true
  | .satb => true
  | .pack => true
  | .store8 => true
  | .advance => true
  | .nextrow => true
  | .finish => true

/-- The legal values of the three build-time parameters (R5); anything else is refused when the block is built (R113). -/
def LayoutParams.wf (p : LayoutParams) : Bool :=
  (p.yIdx = 0 || p.yIdx = 1) && (p.uIdx = 0 || p.uIdx = 1) && (p.bIdx = 0 || p.bIdx = 2)

end Sys2Proof
end

