-- ==== Sys2Proof/Certificates/Slice0/Obligations.lean ====
section
/-!
DEFINITION. The statements for the provers: one definition per obligation of OBLIGATIONS.json, from the numbered rules of
spec/. An equation `exec i s = .next ...` says the whole next state: whatever the record update does not name is unchanged.
-/

open Sys2Proof Sys2Proof.Machine Sys2Proof.Safety

/-! Encodings and the step -/

/-- R106, R108, R115: no bit of an operand is dropped. -/
def Obligations.DecodeEncodeAgree : Prop := ∀ i : Instr, i.wf = true → decode (encode i) = .ok i

/-- R115: the rows are disjoint, cover every word, and the decoder reads the row's command, with operands it admits. -/
def Obligations.EveryHostWordSelectsOneRow : Prop :=
  ∀ w : HtWord, (decodeHt w).wf = true ∧
    ∃ r ∈ htRows, r.selects w = true ∧ (decodeHt w).mnemonic = r.mnemonic ∧ ∀ r' ∈ htRows, r'.selects w = true → r' = r

/-- R111: CONV has no step on a reserved code, and only on those does a step stop for the code. That the model shows having no
step as a fault is its choice (log 7). -/
def Obligations.ReservedPhaseIsStuck : Prop :=
  ∀ s : State, nextEvent s = .conv →
    (0x14 ≤ s.seq.phase.toNat → step s = .fault (.reservedPhase s.seq.phase)) ∧
    (s.seq.phase.toNat < 0x14 → ∀ c, step s ≠ .fault (.reservedPhase c))

/-- R106, R108, R115: words written out from the tables. -/
def Obligations.SampleWordsDecode : Prop :=
  decode (.ht 0x1200001000#37) = .ok (.wrSrcBase 0x1000#32) ∧ decode (.ht 0x1080000001#37) = .ok .start ∧
  decode (.ht 0x10FFFFFFFE#37) = .ok .ctrlnop ∧ decode (.ht 0x0C00000000#37) = .ok (.regrd 12#4) ∧
  decode (.uop 0x02#5) = .ok .fetch4 ∧ decode (.uop 0x13#5) = .ok .finish ∧
  decode (.uop 0x14#5) = .error (.reservedPhase 0x14#5)

/-- R8, R9, R144: a step executes the decoded instruction of the agent whose turn it is, on the state with that turn taken
off the agenda. The agenda is the model's choice (log 4). -/
def Obligations.StepRunsDecodedInstruction : Prop :=
  ∀ (s : State) (i : Instr),
    (∀ w, nextEvent s = .command w → decode (.ht w) = .ok i → step s = exec i { s with agenda := s.agenda.tail }) ∧
    (nextEvent s = .conv → decode (.uop s.seq.phase) = .ok i → step s = exec i { s with agenda := s.agenda.tail })

/-! Host commands -/

/-- R130: what each register number returns; nothing else changes. What the model's own record of the duties HOST owes (log 9)
becomes is left open here; DutiesHoldUntilIdleIsSeen says it. -/
def Obligations.RegrdReturnsRegister : Prop :=
  ∀ (s : State) (n : SlotNo), ∃ (v : Word) (cs : List HostRegs), exec (.regrd n) s = .next { s with rdata := v, owed := cs } ∧
    (n = 0#4 → v = 0#32) ∧
    (n = 1#4 → v.toNat = s.status.busy.toNat + 2 * s.status.done.toNat + 4 * s.status.err.toNat + 16 * s.status.errCode.toNat) ∧
    (n = 2#4 → v = s.cfg.srcBase) ∧ (n = 3#4 → v = s.cfg.srcStride) ∧ (n = 4#4 → v = s.cfg.srcLen) ∧
    (n = 5#4 → v = s.cfg.dstBase) ∧ (n = 6#4 → v = s.cfg.dstLen) ∧ (n = 7#4 → v = s.cfg.width) ∧
    (n = 8#4 → v = s.cfg.height) ∧
    (n = 9#4 → v.toNat = (paramsOf s.layout).yIdx + 2 * (paramsOf s.layout).uIdx + 4 * (paramsOf s.layout).bIdx) ∧
    (10 ≤ n.toNat → v = 0#32)

/-- R131: START while idle begins a run and clears the flags; while busy it changes nothing. What the model's own records of the
launch memory (log 12) and of the duties HOST owes (log 9) become is left open here; DutiesHoldUntilIdleIsSeen says it. -/
def Obligations.StartBeginsRunOnlyWhenIdle : Prop :=
  ∀ s : State,
    (s.status.busy = false → ∃ m cs, exec .start s = .next { s with
        status := { busy := true, done := false, err := false, errCode := 0#4 }
        seq := { s.seq with phase := 0x01#5 }
        launchMem := m
        owed := cs }) ∧
    (s.status.busy = true → exec .start s = .next s)

/-- R132, R140 to R143: these writes change nothing. -/
def Obligations.IgnoredWritesChangeNothing : Prop :=
  ∀ (s : State) (n : SlotNo) (v : Word),
    exec .ctrlnop s = .next s ∧ exec (.wrignStatus v) s = .next s ∧ exec (.wrignLayout v) s = .next s ∧
    exec (.wrignR10 n v) s = .next s ∧ exec (.wrignR12 n v) s = .next s

/-- R133 to R139: the register is written while idle, the write is dropped while busy. -/
def Obligations.ConfigWritesOnlyWhenIdle : Prop :=
  ∀ (s : State) (v : Word),
    (s.status.busy = false →
      exec (.wrSrcBase v) s = .next { s with cfg := { s.cfg with srcBase := v } } ∧
      exec (.wrSrcStride v) s = .next { s with cfg := { s.cfg with srcStride := v } } ∧
      exec (.wrSrcLen v) s = .next { s with cfg := { s.cfg with srcLen := v } } ∧
      exec (.wrDstBase v) s = .next { s with cfg := { s.cfg with dstBase := v } } ∧
      exec (.wrDstLen v) s = .next { s with cfg := { s.cfg with dstLen := v } } ∧
      exec (.wrWidth v) s = .next { s with cfg := { s.cfg with width := v } } ∧
      exec (.wrHeight v) s = .next { s with cfg := { s.cfg with height := v } }) ∧
    (s.status.busy = true →
      exec (.wrSrcBase v) s = .next s ∧ exec (.wrSrcStride v) s = .next s ∧ exec (.wrSrcLen v) s = .next s ∧
      exec (.wrDstBase v) s = .next s ∧ exec (.wrDstLen v) s = .next s ∧ exec (.wrWidth v) s = .next s ∧
      exec (.wrHeight v) s = .next s)

/-- R21, R133 to R139: the transaction that writes slot 2 to 8 while idle makes a read of that slot return the value and
changes what no other slot returns. -/
def Obligations.ConfigWriteReadsBack : Prop :=
  ∀ (s : State) (n : SlotNo) (v : Word), s.status.busy = false → 2 ≤ n.toNat → n.toNat ≤ 8 →
    ∃ t, exec (decodeHt (htWord true n v)) s = .next t ∧ readSlot t n = v ∧ ∀ m, m ≠ n → readSlot t m = readSlot s m

/-- R144: every word is accepted in every state, and makes no memory event; CONV's registers other than PHASE are untouched. -/
def Obligations.HostCommandsNeverFail : Prop :=
  ∀ (w : HtWord) (s : State), ∃ t, exec (decodeHt w) s = .next t ∧ t.mem = s.mem ∧ t.dp = s.dp ∧ t.layout = s.layout ∧
    t.platform = s.platform ∧ t.mdata = s.mdata ∧ t.seq = { s.seq with phase := t.seq.phase }

/-! The configuration check and its fault -/

/-- R201, R221, R222, R223: the lowest code whose condition holds is recorded and the run ends, nothing else changes. -/
def Obligations.CheckReportsLowestFault : Prop :=
  ∀ (s : State) (f : ConfigFault), FaultHolds s.cfg f →
    (∀ g : ConfigFault, (faultCode g).toNat < (faultCode f).toNat → ¬ FaultHolds s.cfg g) →
    exec .check s = .next { s with
      status := { busy := false, done := false, err := true, errCode := faultCode f }
      seq := { s.seq with phase := 0x00#5 } }

/-- R221: the code of each cause. -/
def Obligations.FaultCodesAreThoseOfTheTable : Prop :=
  (faultCode .dim).toNat = 1 ∧ (faultCode .oddWidth).toNat = 2 ∧ (faultCode .stride).toNat = 3 ∧
  (faultCode .srcSize).toNat = 4 ∧ (faultCode .dstSize).toNat = 5 ∧ (faultCode .addrWrap).toNat = 6 ∧
  (faultCode .overlap).toNat = 7

/-- R201: when no condition holds the cursors are set and the pixel loop is entered. The launch must not be on device
memory (R79; log 8). -/
def Obligations.CheckAcceptsLegalLaunch : Prop :=
  ∀ s : State, (∀ f, ¬ FaultHolds s.cfg f) →
    (∀ a, inSource s.cfg a = true ∨ inDestination s.cfg a = true → answerAt s.platform a ≠ .device) →
    exec .check s = .next { s with seq := { s.seq with
      row := 0#32, col := 0#32, srow := s.cfg.srcBase, scur := s.cfg.srcBase, drow := s.cfg.dstBase,
      dcur := s.cfg.dstBase, phase := 0x02#5 } }

/-- R79, U13: a legal launch with a device in one of its regions is refused. That `CHECK` is where the model refuses it is its
choice (log 8). -/
def Obligations.LaunchOnDeviceIsRefused : Prop :=
  ∀ (s : State) (a : Nat), (∀ f, ¬ FaultHolds s.cfg f) → inSource s.cfg a = true ∨ inDestination s.cfg a = true →
    answerAt s.platform a = .device → exec .check s = .refused .deviceMemory

/-! Fetch, unpack, layout -/

/-- R150: the four bytes at SCUR, K <- 0, nothing else. -/
def Obligations.Fetch4ReadsTheGroup : Prop :=
  ∀ s : State, (∀ i, i < 4 → answerAt s.platform ((s.seq.scur.toNat + i) % 2 ^ 32) = .memory) →
    exec .fetch4 s = .next { s with
      dp := { s.dp with
        g0 := s.mem.read ((s.seq.scur.toNat + 0) % 2 ^ 32)
        g1 := s.mem.read ((s.seq.scur.toNat + 1) % 2 ^ 32)
        g2 := s.mem.read ((s.seq.scur.toNat + 2) % 2 ^ 32)
        g3 := s.mem.read ((s.seq.scur.toNat + 3) % 2 ^ 32) }
      seq := { s.seq with k := 0#1, phase := 0x03#5 } }

/-- R92: where memory does not answer some byte of the access (and no byte is a device's), FETCH4 and STORE8 have no step. That
the model shows having no step as a fault is its choice (log 6). -/
def Obligations.UnansweredAccessIsStuck : Prop :=
  ∀ s : State,
    ((∃ i, i < 4 ∧ answerAt s.platform ((s.seq.scur.toNat + i) % 2 ^ 32) = .absent) →
      (∀ i, i < 4 → answerAt s.platform ((s.seq.scur.toNat + i) % 2 ^ 32) ≠ .device) →
      exec .fetch4 s = .fault .memoryNotAdmitted) ∧
    ((∃ i, i < 8 ∧ answerAt s.platform ((s.seq.dcur.toNat + i) % 2 ^ 32) = .absent) →
      (∀ i, i < 8 → answerAt s.platform ((s.seq.dcur.toNat + i) % 2 ^ 32) ≠ .device) →
      exec .store8 s = .fault .memoryNotAdmitted)

/-- R151, R102: the wiring by the arithmetic of R102. -/
def Obligations.UnpackRoutesByLayout : Prop :=
  ∀ s : State, ∃ p0 p1 pu pv : Fin 4,
    p0.val = (paramsOf s.layout).yIdx ∧ p1.val = (paramsOf s.layout).yIdx + 2 ∧
    pu.val = 1 - (paramsOf s.layout).yIdx + 2 * (paramsOf s.layout).uIdx ∧
    pv.val = (3 - (paramsOf s.layout).yIdx + 2 * (paramsOf s.layout).uIdx) % 4 ∧
    exec .unpack s = .next { s with
      dp := { s.dp with
        y0 := s.dp.group.get p0, y1 := s.dp.group.get p1, u := s.dp.group.get pu, v := s.dp.group.get pv }
      seq := { s.seq with phase := 0x04#5 } }

/-- R5, R113: exactly the legal parameter values build a layout, and it is the one they name. -/
def Obligations.OnlyLegalParametersBuild : Prop :=
  ∀ (p : LayoutParams) (l : Layout), buildLayout p = some l ↔ p.wf = true ∧ paramsOf l = p

/-- R101, R102: every byte of a group goes to exactly one sample. -/
def Obligations.GroupPositionsArePermutation : Prop :=
  ∀ (o : SourceOrder) (i : Fin 4), ∃ j : Fin 4,
    i = [y0Pos o, y1Pos o, uPos o, vPos o].get j ∧ ∀ j' : Fin 4, i = [y0Pos o, y1Pos o, uPos o, vPos o].get j' → j' = j

/-! The colour matrix -/

/-- R160: exact, so signed 8 bits hold it. -/
def Obligations.CenterSubtracts128 : Prop :=
  ∀ s : State, ∃ su sv : Byte,
    exec .center s = .next { s with dp := { s.dp with su := su, sv := sv }, seq := { s.seq with phase := 0x05#5 } } ∧
    su.toInt = (s.dp.u.toNat : Int) - 128 ∧ sv.toInt = (s.dp.v.toNat : Int) - 128

/-- R161, R162, R163: the three offset terms, exact in s32. -/
def Obligations.ChromaTermsAreExact : Prop :=
  ∀ s : State,
    (∃ rt : Accum, exec .rterm s = .next { s with dp := { s.dp with rt := rt }, seq := { s.seq with phase := 0x06#5 } } ∧
      rt.toInt = 524288 + 1673527 * s.dp.sv.toInt) ∧
    (∃ gt : Accum, exec .gterm s = .next { s with dp := { s.dp with gt := gt }, seq := { s.seq with phase := 0x07#5 } } ∧
      gt.toInt = 524288 + (-852492) * s.dp.sv.toInt + (-409993) * s.dp.su.toInt) ∧
    (∃ bt : Accum, exec .bterm s = .next { s with dp := { s.dp with bt := bt }, seq := { s.seq with phase := 0x08#5 } } ∧
      bt.toInt = 524288 + 2116026 * s.dp.su.toInt)

/-- R164: the luma of the lane, floored at 16, scaled; never negative, no clamp at 235. -/
def Obligations.YscaleFloorsAndScales : Prop :=
  ∀ s : State, ∃ ys : Accum,
    exec .yscale s = .next { s with dp := { s.dp with ys := ys }, seq := { s.seq with phase := 0x09#5 } } ∧
    ys.toInt = max 0 (((if s.seq.k = 0#1 then s.dp.y0 else s.dp.y1).toNat : Int) - 16) * 1220542

/-- R165, R166, R167, R170: the shifted sum is the floor of the exact sum over 2^20. -/
def Obligations.SumsShiftByFloor : Prop :=
  ∀ s : State,
    (∃ rs : Accum, exec .rsum s = .next { s with dp := { s.dp with rs := rs }, seq := { s.seq with phase := 0x0A#5 } } ∧
      2 ^ 20 * rs.toInt ≤ s.dp.ys.toInt + s.dp.rt.toInt ∧ s.dp.ys.toInt + s.dp.rt.toInt < 2 ^ 20 * (rs.toInt + 1)) ∧
    (∃ gs : Accum, exec .gsum s = .next { s with dp := { s.dp with gs := gs }, seq := { s.seq with phase := 0x0B#5 } } ∧
      2 ^ 20 * gs.toInt ≤ s.dp.ys.toInt + s.dp.gt.toInt ∧ s.dp.ys.toInt + s.dp.gt.toInt < 2 ^ 20 * (gs.toInt + 1)) ∧
    (∃ bs : Accum, exec .bsum s = .next { s with dp := { s.dp with bs := bs }, seq := { s.seq with phase := 0x0C#5 } } ∧
      2 ^ 20 * bs.toInt ≤ s.dp.ys.toInt + s.dp.bt.toInt ∧ s.dp.ys.toInt + s.dp.bt.toInt < 2 ^ 20 * (bs.toInt + 1))

/-- R171: after CENTER to SATB for the lane, the channels are the colour function of the lane's samples. -/
def Obligations.ColourOperationsComputeCsc : Prop :=
  ∀ s : State, s.agenda = [] → s.seq.phase = 0x04#5 → ∃ t, Host.Core.run Sys2Proof.core 11 s = .next t ∧
    t.seq = { s.seq with phase := 0x0F#5 } ∧
    let su : Int := (s.dp.u.toNat : Int) - 128
    let sv : Int := (s.dp.v.toNat : Int) - 128
    let ys : Int := max 0 (((if s.seq.k = 0#1 then s.dp.y0 else s.dp.y1).toNat : Int) - 16) * 1220542
    t.dp.r8 = sat8 ((ys + 524288 + 1673527 * sv) / 2 ^ 20) ∧
    t.dp.g8 = sat8 ((ys + 524288 - 852492 * sv - 409993 * su) / 2 ^ 20) ∧
    t.dp.b8 = sat8 ((ys + 524288 + 2116026 * su) / 2 ^ 20)

/-- R168: the exact ranges of the intermediates over all bytes, each bound attained. -/
def Obligations.IntermediateRanges : Prop :=
  (∀ y u v : Byte,
    (-128 ≤ centred u ∧ centred u ≤ 127 ∧ -128 ≤ centred v ∧ centred v ≤ 127) ∧
    (-16 ≤ (y.toNat : Int) - 16 ∧ (y.toNat : Int) - 16 ≤ 239) ∧
    (-213687168 ≤ redTerm (centred v) ∧ redTerm (centred v) ≤ 213062217) ∧
    (-159811307 ≤ greenTerm (centred u) (centred v) ∧ greenTerm (centred u) (centred v) ≤ 162122368) ∧
    (-270327040 ≤ blueTerm (centred u) ∧ blueTerm (centred u) ≤ 269259590) ∧
    (0 ≤ scaledLuma y ∧ scaledLuma y ≤ 291709538) ∧
    (-213687168 ≤ scaledLuma y + redTerm (centred v) ∧ scaledLuma y + redTerm (centred v) ≤ 504771755) ∧
    (-159811307 ≤ scaledLuma y + greenTerm (centred u) (centred v) ∧
      scaledLuma y + greenTerm (centred u) (centred v) ≤ 453831906) ∧
    (-270327040 ≤ scaledLuma y + blueTerm (centred u) ∧ scaledLuma y + blueTerm (centred u) ≤ 560969128) ∧
    (-204 ≤ asr20 (scaledLuma y + redTerm (centred v)) ∧ asr20 (scaledLuma y + redTerm (centred v)) ≤ 481) ∧
    (-153 ≤ asr20 (scaledLuma y + greenTerm (centred u) (centred v)) ∧
      asr20 (scaledLuma y + greenTerm (centred u) (centred v)) ≤ 432) ∧
    (-258 ≤ asr20 (scaledLuma y + blueTerm (centred u)) ∧ asr20 (scaledLuma y + blueTerm (centred u)) ≤ 534)) ∧
  (∃ y u v : Byte, centred u = -128 ∧ centred v = -128 ∧ redTerm (centred v) = -213687168 ∧
    greenTerm (centred u) (centred v) = 162122368 ∧ blueTerm (centred u) = -270327040 ∧ (y.toNat : Int) - 16 = -16 ∧
    scaledLuma y = 0 ∧ scaledLuma y + redTerm (centred v) = -213687168 ∧ scaledLuma y + blueTerm (centred u) = -270327040 ∧
    asr20 (scaledLuma y + redTerm (centred v)) = -204 ∧ asr20 (scaledLuma y + blueTerm (centred u)) = -258) ∧
  (∃ y u v : Byte, centred u = 127 ∧ centred v = 127 ∧ redTerm (centred v) = 213062217 ∧
    greenTerm (centred u) (centred v) = -159811307 ∧ blueTerm (centred u) = 269259590 ∧ (y.toNat : Int) - 16 = 239 ∧
    scaledLuma y = 291709538 ∧ scaledLuma y + redTerm (centred v) = 504771755 ∧
    scaledLuma y + blueTerm (centred u) = 560969128 ∧ asr20 (scaledLuma y + redTerm (centred v)) = 481 ∧
    asr20 (scaledLuma y + blueTerm (centred u)) = 534) ∧
  (∃ y u v : Byte, scaledLuma y + greenTerm (centred u) (centred v) = 453831906 ∧
    asr20 (scaledLuma y + greenTerm (centred u) (centred v)) = 432) ∧
  (∃ y u v : Byte, scaledLuma y + greenTerm (centred u) (centred v) = -159811307 ∧
    asr20 (scaledLuma y + greenTerm (centred u) (centred v)) = -153)

/-! Saturation -/

/-- R180 to R183: each channel is clamped to 0 to 255. -/
def Obligations.SaturationClamps : Prop :=
  ∀ s : State,
    (∃ r8 : Byte, exec .satr s = .next { s with dp := { s.dp with r8 := r8 }, seq := { s.seq with phase := 0x0D#5 } } ∧
      (r8.toNat : Int) = max 0 (min 255 s.dp.rs.toInt)) ∧
    (∃ g8 : Byte, exec .satg s = .next { s with dp := { s.dp with g8 := g8 }, seq := { s.seq with phase := 0x0E#5 } } ∧
      (g8.toNat : Int) = max 0 (min 255 s.dp.gs.toInt)) ∧
    (∃ b8 : Byte, exec .satb s = .next { s with dp := { s.dp with b8 := b8 }, seq := { s.seq with phase := 0x0F#5 } } ∧
      (b8.toNat : Int) = max 0 (min 255 s.dp.bs.toInt))

/-- R184: the unsigned-compare form equals sat8 on every s32. -/
def Obligations.UnsignedCompareFormIsSat8 : Prop :=
  ∀ x : BitVec 32, (sat8 x.toInt).toNat = if x.toNat ≤ 255 then x.toNat else if 0 < x.toInt then 255 else 0

/-- R185: floor and truncation toward zero give the same byte. -/
def Obligations.SaturationHidesRounding : Prop := ∀ x : Int, sat8 (asr20 x) = sat8 (x.tdiv (2 ^ 20))

/-! Pack and store -/

/-- R190: the four bytes of the lane by B_IDX, alpha 255, the loop on K. -/
def Obligations.PackPlacesThePixel : Prop :=
  ∀ s : State, ∃ q : Quad,
    (∃ rp bp : Fin 4, rp.val = 2 - (paramsOf s.layout).bIdx ∧ bp.val = (paramsOf s.layout).bIdx ∧
      q.get rp = s.dp.r8 ∧ q.get 1 = s.dp.g8 ∧ q.get bp = s.dp.b8 ∧ q.get 3 = 255#8) ∧
    (s.seq.k = 0#1 → exec .pack s = .next { s with
      dp := { s.dp with p0 := q.b0, p1 := q.b1, p2 := q.b2, p3 := q.b3 }
      seq := { s.seq with k := 1#1, phase := 0x08#5 } }) ∧
    (s.seq.k = 1#1 → exec .pack s = .next { s with
      dp := { s.dp with p4 := q.b0, p5 := q.b1, p6 := q.b2, p7 := q.b3 }
      seq := { s.seq with phase := 0x10#5 } })

/-- R191, R75: the eight bytes stand at DCUR to DCUR + 7 modulo 2^32, every other byte is as before, nothing else changes
but PHASE. -/
def Obligations.Store8WritesThePair : Prop :=
  ∀ s : State, s.mem.wf = true → (∀ i, i < 8 → answerAt s.platform ((s.seq.dcur.toNat + i) % 2 ^ 32) = .memory) →
    ∃ m : Memory, exec .store8 s = .next { s with mem := m, seq := { s.seq with phase := 0x11#5 } } ∧
      m.read ((s.seq.dcur.toNat + 0) % 2 ^ 32) = s.dp.p0 ∧ m.read ((s.seq.dcur.toNat + 1) % 2 ^ 32) = s.dp.p1 ∧
      m.read ((s.seq.dcur.toNat + 2) % 2 ^ 32) = s.dp.p2 ∧ m.read ((s.seq.dcur.toNat + 3) % 2 ^ 32) = s.dp.p3 ∧
      m.read ((s.seq.dcur.toNat + 4) % 2 ^ 32) = s.dp.p4 ∧ m.read ((s.seq.dcur.toNat + 5) % 2 ^ 32) = s.dp.p5 ∧
      m.read ((s.seq.dcur.toNat + 6) % 2 ^ 32) = s.dp.p6 ∧ m.read ((s.seq.dcur.toNat + 7) % 2 ^ 32) = s.dp.p7 ∧
      ∀ a : Nat, (∀ i, i < 8 → a ≠ (s.seq.dcur.toNat + i) % 2 ^ 32) → m.read a = s.mem.read a

/-! The sequencer -/

/-- R200: CONV changes nothing in IDLE. -/
def Obligations.IdleChangesNothing : Prop := ∀ s : State, exec .idle s = .next s

/-- R202: the cursors move by 4 and 8 modulo 2^32, COL by one, and the end of the row is tested on exact integers. -/
def Obligations.AdvanceMovesTheCursors : Prop :=
  ∀ s : State, ∃ scur dcur col : Word,
    exec .advance s = .next { s with seq := { s.seq with
      scur := scur, dcur := dcur, col := col
      phase := if 2 * (s.seq.col.toNat + 1) ≥ s.cfg.width.toNat then 0x12#5 else 0x02#5 } } ∧
    scur.toNat = (s.seq.scur.toNat + 4) % 2 ^ 32 ∧ dcur.toNat = (s.seq.dcur.toNat + 8) % 2 ^ 32 ∧
    (s.seq.col.toNat + 1 < 2 ^ 32 → col.toNat = s.seq.col.toNat + 1)

/-- R203: the row pointers move by the stride and by 4 * WIDTH modulo 2^32, the cursors are reloaded from them, COL is 0,
ROW moves by one, and the end of the frame is tested on exact integers. -/
def Obligations.NextrowMovesToTheNextRow : Prop :=
  ∀ s : State, ∃ srow drow row : Word,
    exec .nextrow s = .next { s with seq := { s.seq with
      srow := srow, scur := srow, drow := drow, dcur := drow, col := 0#32, row := row
      phase := if s.seq.row.toNat + 1 ≥ s.cfg.height.toNat then 0x13#5 else 0x02#5 } } ∧
    srow.toNat = (s.seq.srow.toNat + s.cfg.srcStride.toNat) % 2 ^ 32 ∧
    drow.toNat = (s.seq.drow.toNat + 4 * s.cfg.width.toNat) % 2 ^ 32 ∧
    (s.seq.row.toNat + 1 < 2 ^ 32 → row.toNat = s.seq.row.toNat + 1)

/-- R204: BUSY <- 0, DONE <- 1, PHASE <- IDLE, nothing else. -/
def Obligations.FinishEndsTheRun : Prop :=
  ∀ s : State, exec .finish s = .next { s with
    status := { s.status with busy := false, done := true }, seq := { s.seq with phase := 0x00#5 } }

/-- R205: the next-PHASE function at CONV's turn. -/
def Obligations.PhaseSuccession : Prop :=
  ∀ s t : State, nextEvent s = .conv → step s = .next t →
    let p := s.seq.phase.toNat
    let q := t.seq.phase.toNat
    (p = 0x00 → q = 0x00) ∧
    (p = 0x01 → (∃ f, FaultHolds s.cfg f) → q = 0x00) ∧
    (p = 0x01 → (∀ f, ¬ FaultHolds s.cfg f) → q = 0x02) ∧
    (0x02 ≤ p → p ≤ 0x0E → q = p + 1) ∧
    (p = 0x02 → t.seq.k = 0#1) ∧
    (p = 0x0F → s.seq.k = 0#1 → q = 0x08 ∧ t.seq.k = 1#1) ∧
    (p = 0x0F → s.seq.k = 1#1 → q = 0x10) ∧
    (p = 0x10 → q = 0x11) ∧
    (p = 0x11 → 2 * (s.seq.col.toNat + 1) < s.cfg.width.toNat → q = 0x02) ∧
    (p = 0x11 → 2 * (s.seq.col.toNat + 1) ≥ s.cfg.width.toNat → q = 0x12) ∧
    (p = 0x12 → s.seq.row.toNat + 1 < s.cfg.height.toNat → q = 0x02) ∧
    (p = 0x12 → s.seq.row.toNat + 1 ≥ s.cfg.height.toNat → q = 0x13) ∧
    (p = 0x13 → q = 0x00)

/-! Invariants that every step keeps, whatever event comes next -/

/-- R23, R34, R111: legal flags, PHASE is IDLE exactly when BUSY is 0, no reserved code. -/
def Obligations.ControlInvariantKept : Prop := ∀ s t : State, ControlInv s → step s = .next t → ControlInv t

/-- The model's choice (log 2): memory stays in canonical form. -/
def Obligations.MemoryInvariantKept : Prop := ∀ s t : State, MemoryInv s → step s = .next t → MemoryInv t

/-- R36, R37: the cursors of a run point at its pair without wrap. -/
def Obligations.CursorInvariantKept : Prop :=
  ∀ s t : State, ControlInv s → CursorInv s → step s = .next t → CursorInv t

/-- R52, R171: the datapath holds what the operations before computed. -/
def Obligations.DatapathInvariantKept : Prop := ∀ s t : State, DatapathInv s → step s = .next t → DatapathInv t

/-- R82, R83, R206: every interleaving of CONV's operations with HOST's permitted moves keeps the payload as launched,
the destination bytes written so far final and those not yet written as launched. -/
def Obligations.RunInvariantKept : Prop := ∀ s t : State, RunInv s → step s = .next t → RunInv t

/-- R50: the state after reset of every instantiation meets the invariants. The unspecified registers, memory, platform and
the model's own fields have the values of logs 1, 2, 4, 5, 9, 12, 13 there. -/
def Obligations.ResetMeetsTheInvariants : Prop := RunInv State.reset ∧ ∀ l : Layout, RunInv (State.resetOf l)

/-! What a run reads, writes and computes -/

/-- R206: when FINISH is reached, under any interleaving, the destination region holds the converted frame. -/
def Obligations.FinishFindsFrameConverted : Prop :=
  ∀ s : State, RunInv s → s.seq.phase = 0x13#5 → FrameConverted s.layout s.cfg s.launchMem s.mem

/-- R206, R207: an accepted START on a legal configuration, with memory answering and HOST making no further move (an empty
agenda gives CONV the turn: the model's choice, log 4), ends
after exactly 12 * W * H + H + 2 CONV steps with DONE, the frame converted, every byte outside the destination region as
before, and the configuration unchanged. -/
def Obligations.WholeRunConvertsTheFrame : Prop :=
  ∀ s : State, s.agenda = [.command 0x1000000001#37] → s.status.busy = false → s.mem.wf = true →
    (∀ f, ¬ FaultHolds s.cfg f) → RegionsAnswer s →
    ∃ t, Host.Core.run Sys2Proof.core (1 + runLength s.cfg) s = .next t ∧
      (∀ n u, 1 ≤ n → n < 1 + runLength s.cfg → Host.Core.run Sys2Proof.core n s = .next u → u.status.busy = true) ∧
      statusWord t.status = 0x00000002#32 ∧ t.seq.phase = 0x00#5 ∧ t.cfg = s.cfg ∧
      FrameConverted s.layout s.cfg s.mem t.mem ∧
      ∀ a, inDestination s.cfg a = false → t.mem.read a = s.mem.read a

/-- R207, R223: a run that faults takes one CONV step, writes no byte and leaves the configuration. -/
def Obligations.FaultingRunTouchesNothing : Prop :=
  ∀ (s : State) (f : ConfigFault), s.agenda = [.command 0x1000000001#37] → s.status.busy = false → FaultHolds s.cfg f →
    ∃ t, Host.Core.run Sys2Proof.core 2 s = .next t ∧ t.status.busy = false ∧ t.status.done = false ∧
      t.status.err = true ∧ t.seq.phase = 0x00#5 ∧ t.mem = s.mem ∧ t.cfg = s.cfg ∧ t.dp = s.dp

/-- R82: FETCH4 reads only payload bytes of a run. -/
def Obligations.FetchReadsOnlyPayload : Prop :=
  ∀ s : State, CursorInv s → s.seq.phase = 0x02#5 → ∀ i, i < 4 →
    byteAddr s.seq.scur i = s.seq.scur.toNat + i ∧ inPayload s.cfg (byteAddr s.seq.scur i) = true

/-- R83: CONV's turn changes no byte outside the destination region, no configuration register and not LAYOUT. -/
def Obligations.ConvWritesOnlyTheDestination : Prop :=
  ∀ s t : State, MemoryInv s → CursorInv s → nextEvent s = .conv → step s = .next t →
    (∀ a, inDestination s.cfg a = false → t.mem.read a = s.mem.read a) ∧ t.cfg = s.cfg ∧ t.layout = s.layout

/-- R82, R83, R206: with the same configuration, layout and payload bytes, whatever else differs (padding, old destination
contents, internal registers, flags), two runs leave the same destination bytes. -/
def Obligations.ResultDependsOnlyOnPayload : Prop :=
  ∀ s s' : State, s.layout = s'.layout → s.cfg = s'.cfg → (∀ f, ¬ FaultHolds s.cfg f) →
    (∀ a, inPayload s.cfg a = true → s.mem.read a = s'.mem.read a) →
    s.agenda = [.command 0x1000000001#37] → s'.agenda = [.command 0x1000000001#37] →
    s.status.busy = false → s'.status.busy = false → s.mem.wf = true → s'.mem.wf = true →
    RegionsAnswer s → RegionsAnswer s' →
    ∃ t t', Host.Core.run Sys2Proof.core (1 + runLength s.cfg) s = .next t ∧
      Host.Core.run Sys2Proof.core (1 + runLength s.cfg) s' = .next t' ∧
      ∀ a, inDestination s.cfg a = true → t.mem.read a = t'.mem.read a

/-- R192: alpha is 255 in every pixel of the finished frame. -/
def Obligations.AlphaIsAlways255 : Prop :=
  ∀ s : State, RunInv s → s.seq.phase = 0x13#5 → ∀ i, i < s.cfg.width.toNat * s.cfg.height.toNat →
    s.mem.read (s.cfg.dstBase.toNat + 4 * i + 3) = 255#8

/-- R33: BUSY is set only by START, cleared only by FINISH, a fault in CHECK or reset. -/
def Obligations.OnlyTheseEventsChangeBusy : Prop :=
  ∀ s t : State, step s = .next t →
    (s.status.busy = false → t.status.busy = true → ∃ w, nextEvent s = .command w ∧ decodeHt w = .start) ∧
    (s.status.busy = true → t.status.busy = false →
      nextEvent s = .reset ∨ (nextEvent s = .conv ∧ (s.seq.phase = 0x13#5 ∨
        (s.seq.phase = 0x01#5 ∧ ∃ f, FaultHolds s.cfg f))))

/-- R133, R254: while a run goes on the configuration does not change. -/
def Obligations.ConfigConstantWhileBusy : Prop :=
  ∀ s t : State, step s = .next t → s.status.busy = true → nextEvent s ≠ .reset → t.cfg = s.cfg

/-- R71: the payload set, row by row. -/
def Obligations.PayloadSetIsRowByRow : Prop :=
  ∀ (c : HostRegs) (a : Nat), inPayload c a = true ↔
    ∃ r x, r < c.height.toNat ∧ x < 2 * c.width.toNat ∧ a = c.srcBase.toNat + r * c.srcStride.toNat + x

/-- R209: a run over a range of rows of a legal frame is itself legal, and left alone (CONV's turns: the model's choice, log 4) it
ends with exactly those rows of the frame converted and every byte outside them as before. -/
def Obligations.FrameSplitsByRows : Prop :=
  ∀ (c : HostRegs) (r0 n : Nat), (∀ f, ¬ FaultHolds c f) → 0 < n → r0 + n ≤ c.height.toNat →
    (∀ f, ¬ FaultHolds (rowRange c r0 n) f) ∧
    (∀ (l : Layout) (m0 m : Memory),
      FrameConverted l (rowRange c r0 n) m0 m ↔ ∀ r, r0 ≤ r → r < r0 + n → RowConverted l c m0 m r) ∧
    ∀ s : State, s.cfg = rowRange c r0 n → s.agenda = [.command 0x1000000001#37] → s.status.busy = false →
      s.mem.wf = true → RegionsAnswer s →
      ∃ t, Host.Core.run Sys2Proof.core (1 + runLength s.cfg) s = .next t ∧ statusWord t.status = 0x00000002#32 ∧
        (∀ r, r0 ≤ r → r < r0 + n → RowConverted s.layout c s.mem t.mem r) ∧
        ∀ a, (a < pixelAddr c r0 0 ∨ pixelAddr c (r0 + n) 0 ≤ a) → t.mem.read a = s.mem.read a

/-! HOST and reset -/

/-- R87, R88, R256, U6: while HOST owes its duties on a run (it is in progress, or HOST has not yet seen its end), its write to the
run's payload or destination and its read of the destination are no moves of the model. That it shows them as a refusal is
its choice (log 9). -/
def Obligations.BrokenDutyIsRefused : Prop :=
  ∀ (s : State) (c : HostRegs) (a : Word) (b : Byte), Owes s c →
    (nextEvent s = .hostWrite a b → inPayload c a.toNat = true → step s = .refused (.dutyBroken .keepSource)) ∧
    (nextEvent s = .hostWrite a b → (∀ c', Owes s c' → inPayload c' a.toNat = false) → inDestination c a.toNat = true →
      step s = .refused (.dutyBroken .leaveDestinationUnwritten)) ∧
    (nextEvent s = .hostRead a → inDestination c a.toNat = true →
      step s = .refused (.dutyBroken .leaveDestinationUnread))

/-- R256: an accepted START puts HOST under its duties on the run's buffers, a STATUS read that shows BUSY = 0 ends them all, and
nothing else, FINISH and reset included, changes them; the record of memory at the launch is made by an accepted START only.
Both records are the model's own (logs 9, 12). -/
def Obligations.DutiesHoldUntilIdleIsSeen : Prop :=
  ∀ s t : State, step s = .next t →
    let started := s.status.busy = false ∧ ∃ w, nextEvent s = .command w ∧ decodeHt w = .start
    let seenIdle := s.status.busy = false ∧ ∃ w, nextEvent s = .command w ∧ decodeHt w = .regrd 1#4
    (started → t.owed = s.cfg :: s.owed ∧ t.launchMem = s.mem) ∧
    (seenIdle → t.owed = [] ∧ t.launchMem = s.launchMem) ∧
    (¬ started → ¬ seenIdle → t.owed = s.owed ∧ t.launchMem = s.launchMem)

/-- R86, R87, R253: outside the buffers of the runs HOST owes its duties on, so anywhere once it has seen the end of every run,
HOST reads the byte memory holds and its write changes that byte and no other: it can place the source frame, and read the
destination after DONE. That the byte read is kept in a field is the model's choice (log 13). -/
def Obligations.HostMovesFreelyOutsideItsDuties : Prop :=
  ∀ (s : State) (a : Word) (b : Byte), s.mem.wf = true → answerAt s.platform a.toNat = .memory →
    (nextEvent s = .hostRead a → (∀ c, Owes s c → inDestination c a.toNat = false) →
      step s = .next { s with agenda := s.agenda.tail, mdata := s.mem.read a.toNat }) ∧
    (nextEvent s = .hostWrite a b → (∀ c, Owes s c → inPayload c a.toNat = false ∧ inDestination c a.toNat = false) →
      ∃ m, step s = .next { s with agenda := s.agenda.tail, mem := m } ∧ m.read a.toNat = b ∧
        ∀ x, x ≠ a.toNat → m.read x = s.mem.read x)

/-- R87: at any time of a legal run, with no earlier run on other buffers whose end HOST has not seen, HOST may write padding and
read the source; idle and with every end seen, it may also write the payload and the destination and read the destination. Only
the byte written changes. That the byte read is kept in a field is the model's choice (log 13). -/
def Obligations.HostMayTouchPaddingAndReadSource : Prop :=
  ∀ (s : State) (a : Word) (b : Byte), s.mem.wf = true → (∀ f, ¬ FaultHolds s.cfg f) → (∀ c, Owes s c → c = s.cfg) →
    inSource s.cfg a.toNat = true ∨ (inDestination s.cfg a.toNat = true ∧ s.status.busy = false ∧ s.owed = []) →
    answerAt s.platform a.toNat = .memory →
    (nextEvent s = .hostRead a →
      step s = .next { s with agenda := s.agenda.tail, mdata := s.mem.read a.toNat }) ∧
    (nextEvent s = .hostWrite a b → inPayload s.cfg a.toNat = false ∨ (s.status.busy = false ∧ s.owed = []) →
      ∃ m, step s = .next { s with agenda := s.agenda.tail, mem := m } ∧ m.read a.toNat = b ∧
        ∀ x, x ≠ a.toNat → m.read x = s.mem.read x)

/-- R250, R50: reset of an idle block, or of a busy one whose configuration CHECK faults (START accepted, CHECK not yet taken),
clears STATUS and the configuration, makes PHASE IDLE and does not touch memory. -/
def Obligations.ResetClearsTheBlock : Prop :=
  ∀ s : State, nextEvent s = .reset → s.status.busy = false ∨ (∃ f, FaultHolds s.cfg f) →
    ∃ t, step s = .next t ∧ statusWord t.status = 0#32 ∧
    t.cfg.srcBase = 0#32 ∧ t.cfg.srcStride = 0#32 ∧ t.cfg.srcLen = 0#32 ∧ t.cfg.dstBase = 0#32 ∧ t.cfg.dstLen = 0#32 ∧
    t.cfg.width = 0#32 ∧ t.cfg.height = 0#32 ∧ t.seq.phase = 0x00#5 ∧ t.layout = s.layout ∧ t.mem = s.mem ∧
    t.platform = s.platform

/-- R252, U9: reset during a run clears the block and leaves each byte of the destination region old or final, every other
byte as it was. Which of the two is a free value (log 12): this holds for every choice of it. -/
def Obligations.ResetDuringRunLeavesOldOrFinal : Prop :=
  ∀ s : State, nextEvent s = .reset → s.status.busy = true → (∀ f, ¬ FaultHolds s.cfg f) → s.mem.wf = true →
    ∃ t, step s = .next t ∧ statusWord t.status = 0#32 ∧ t.cfg = HostRegs.zero ∧ t.seq.phase = 0x00#5 ∧
      (∀ j, j < 4 * s.cfg.width.toNat * s.cfg.height.toNat →
        t.mem.read (s.cfg.dstBase.toNat + j) = s.launchMem.read (s.cfg.dstBase.toNat + j) ∨
        t.mem.read (s.cfg.dstBase.toNat + j) = finalByte s.layout s.cfg s.launchMem j) ∧
      ∀ a, inDestination s.cfg a = false → t.mem.read a = s.mem.read a
end

