-- ==== Sys2Proof/Laws/Arith.lean ====
section
/-!
SUPPORT. The arithmetic of the operand forms: what narrows exactly, the ranges of the intermediates, and saturation as a
number.
-/

namespace Sys2Proof.Machine

/-- A value in the range of 8 signed bits is held exactly. -/
theorem ofInt8_toInt {x : Int} (h : -128 ≤ x) (h' : x ≤ 127) : (BitVec.ofInt 8 x).toInt = x := by
  rw [BitVec.toInt_ofInt, Int.bmod_def]
  split_ifs <;> omega

/-- A value in the range of `s32` is held exactly (R168). -/
theorem toAccum_toInt {x : Int} (h : -2147483648 ≤ x) (h' : x < 2147483648) : (toAccum x).toInt = x := by
  unfold toAccum
  rw [BitVec.toInt_ofInt, Int.bmod_def]
  split_ifs <;> omega

theorem byte_toInt_range (b : Byte) : -128 ≤ b.toInt ∧ b.toInt ≤ 127 := by
  have := BitVec.le_toInt b
  have := BitVec.toInt_lt (x := b)
  constructor <;> omega

theorem accum_toInt_range (a : Accum) : -2147483648 ≤ a.toInt ∧ a.toInt < 2147483648 := by
  have := BitVec.le_toInt a
  have := BitVec.toInt_lt (x := a)
  constructor <;> omega

/-- The range of a centred chroma sample (R160). -/
theorem centred_range (c : Byte) : -128 ≤ centred c ∧ centred c ≤ 127 := by
  have := c.isLt
  unfold centred chromaMid
  omega

/-- The range of the scaled luma (R164). -/
theorem scaledLuma_range (y : Byte) : 0 ≤ scaledLuma y ∧ scaledLuma y ≤ 291709538 := by
  have := y.isLt
  unfold scaledLuma lumaFloor coefY
  omega

/-- The shift by 20 is the floor (R170). -/
theorem asr20_spec (x : Int) : 1048576 * asr20 x ≤ x ∧ x < 1048576 * (asr20 x + 1) := by
  unfold asr20 shiftDivisor
  omega

/-- Two accumulators with a sum well inside `s32` give the floor of the exact sum. -/
theorem toAccum_shiftedSum {ys term : Accum} {a b : Int} (h1 : ys.toInt = a) (h2 : term.toInt = b)
    (hl : -1073741824 < a + b) (hu : a + b < 1073741824) : (toAccum (shiftedSum ys term)).toInt = asr20 (a + b) := by
  have e : shiftedSum ys term = asr20 (a + b) := by unfold shiftedSum; rw [h1, h2]
  have h := asr20_spec (a + b)
  rw [e, toAccum_toInt] <;> omega

/-- Saturation as a number: clamped to 0 to 255 (R180). -/
theorem sat8_toNat (x : Int) : ((sat8 x).toNat : Int) = max 0 (min 255 x) := by
  unfold sat8
  split_ifs with h1 h2
  · simp
    omega
  · rw [BitVec.toNat_ofInt]
    omega
  · simp
    omega

end Sys2Proof.Machine
end

