-- ==== Sys2Proof/Laws/Memory.lean ====
section
/-!
SUPPORT. Memory: a write changes the byte written and no other, every operation keeps the canonical form, and equal contents
are equal data.
-/

namespace Sys2Proof.Machine

@[simp] theorem Memory.read_nil (a : Nat) : Memory.read [] a = unlistedByte := rfl

@[simp] theorem Memory.read_cons (c : Host.Cell) (m : Memory) (a : Nat) :
    Memory.read (c :: m) a = if c.1 = a then c.2 else Memory.read m a := rfl

theorem Memory.wfFrom_cons (c : Host.Cell) (m : Memory) (lo : Nat) :
    Memory.wfFrom (c :: m) lo = true ↔
      lo ≤ c.1 ∧ c.1 < 2 ^ 32 ∧ c.2 ≠ unlistedByte ∧ Memory.wfFrom m (c.1 + 1) = true := by
  simp [Memory.wfFrom, and_assoc]

theorem Memory.wfFrom_mono {m : Memory} {lo hi : Nat} (h : Memory.wfFrom m hi = true) (hl : lo ≤ hi) :
    Memory.wfFrom m lo = true := by
  cases m with
  | nil => rfl
  | cons c m =>
    rw [Memory.wfFrom_cons] at h ⊢
    exact ⟨by omega, h.2⟩

/-- Below the least address of a canonical memory nothing is listed. -/
theorem Memory.read_below {m : Memory} {lo a : Nat} (h : Memory.wfFrom m lo = true) (ha : a < lo) :
    Memory.read m a = unlistedByte := by
  induction m generalizing lo with
  | nil => rfl
  | cons c m ih =>
    rw [Memory.wfFrom_cons] at h
    rw [Memory.read_cons, if_neg (by omega)]
    exact ih h.2.2.2 (by omega)

theorem Memory.read_cellFor (a : Nat) (b : Byte) (m : Memory) (x : Nat) (hm : Memory.read m a = unlistedByte) :
    Memory.read (cellFor a b ++ m) x = if x = a then b else Memory.read m x := by
  unfold cellFor
  by_cases hb : b = unlistedByte
  · by_cases hx : x = a <;> simp [hb, hx, hm]
  · by_cases hx : x = a
    · simp [hb, hx]
    · simp [hb, hx, show a ≠ x from fun e => hx e.symm]

theorem Memory.read_write_from {m : Memory} {lo : Nat} (h : Memory.wfFrom m lo = true) (a : Nat) (b : Byte) (x : Nat) :
    Memory.read (Memory.write m a b) x = if x = a then b else Memory.read m x := by
  induction m generalizing lo with
  | nil =>
    have := Memory.read_cellFor a b [] x rfl
    simpa [Memory.write] using this
  | cons c m ih =>
    have hc := (Memory.wfFrom_cons c m lo).mp h
    unfold Memory.write
    by_cases h1 : a < c.1
    · rw [if_pos h1]
      exact Memory.read_cellFor a b (c :: m) x (Memory.read_below (Memory.wfFrom_mono h (le_refl _) |> fun _ =>
        (Memory.wfFrom_cons c m c.1).mpr ⟨le_refl _, hc.2⟩) h1)
    · rw [if_neg h1]
      by_cases h2 : a = c.1
      · rw [if_pos h2]
        rw [Memory.read_cellFor a b m x (Memory.read_below hc.2.2.2 (by omega)), Memory.read_cons]
        by_cases hx : x = a
        · simp [hx]
        · rw [if_neg hx, if_neg hx, if_neg (by omega)]
      · rw [if_neg h2, Memory.read_cons, ih hc.2.2.2, Memory.read_cons]
        by_cases hx : c.1 = x
        · rw [if_pos hx, if_pos hx, if_neg (by omega)]
        · rw [if_neg hx, if_neg hx]

/-- The byte written is read back; every other byte is as before. -/
theorem Memory.read_write {m : Memory} (h : m.wf = true) (a : Nat) (b : Byte) (x : Nat) :
    (m.write a b).read x = if x = a then b else m.read x := Memory.read_write_from h a b x

theorem Memory.wfFrom_cellFor {m : Memory} {a lo : Nat} {b : Byte} (h : Memory.wfFrom m (a + 1) = true) (hl : lo ≤ a)
    (ha : a < 2 ^ 32) : Memory.wfFrom (cellFor a b ++ m) lo = true := by
  unfold cellFor
  by_cases hb : b = unlistedByte
  · simpa [hb] using Memory.wfFrom_mono h (by omega)
  · simpa [hb, Memory.wfFrom_cons] using ⟨hl, by omega, h⟩

theorem Memory.write_wfFrom {m : Memory} {lo : Nat} (h : Memory.wfFrom m lo = true) {a : Nat} (b : Byte) (hl : lo ≤ a)
    (ha : a < 2 ^ 32) : Memory.wfFrom (Memory.write m a b) lo = true := by
  induction m generalizing lo with
  | nil => simpa [Memory.write] using Memory.wfFrom_cellFor (m := []) (b := b) rfl hl ha
  | cons c m ih =>
    have hc := (Memory.wfFrom_cons c m lo).mp h
    unfold Memory.write
    by_cases h1 : a < c.1
    · rw [if_pos h1]
      exact Memory.wfFrom_cellFor ((Memory.wfFrom_cons c m (a + 1)).mpr ⟨by omega, hc.2⟩) hl ha
    · rw [if_neg h1]
      by_cases h2 : a = c.1
      · rw [if_pos h2]
        exact Memory.wfFrom_cellFor (h2 ▸ hc.2.2.2) hl ha
      · rw [if_neg h2, Memory.wfFrom_cons]
        exact ⟨hc.1, hc.2.1, hc.2.2.1, ih hc.2.2.2 (by omega)⟩

/-- A write keeps the canonical form. -/
theorem Memory.write_wf {m : Memory} (h : m.wf = true) {a : Nat} (b : Byte) (ha : a < 2 ^ 32) : (m.write a b).wf = true :=
  Memory.write_wfFrom h b (Nat.zero_le a) ha

theorem byteAddr_lt (addr : Word) (i : Nat) : byteAddr addr i < 2 ^ 32 := (addr + BitVec.ofNat 32 i).isLt

/-- An access that does not run past the top of the address space does not wrap. -/
theorem byteAddr_eq {addr : Word} {i : Nat} (h : addr.toNat + i < 2 ^ 32) : byteAddr addr i = addr.toNat + i := by
  unfold byteAddr
  rw [BitVec.toNat_add, BitVec.toNat_ofNat, Nat.mod_eq_of_lt (by omega : i < 2 ^ 32), Nat.mod_eq_of_lt h]

/-- The stored bytes keep the canonical form. -/
theorem writeBytes_wf {m : Memory} (h : m.wf = true) (addr : Word) (i : Nat) (bs : List Byte) :
    (writeBytes m addr i bs).wf = true := by
  induction bs generalizing m i with
  | nil => exact h
  | cons b bs ih => exact ih (Memory.write_wf h b (byteAddr_lt addr i)) (i + 1)

/-- A byte at none of the stored addresses is as before. -/
theorem read_writeBytes_outside {m : Memory} (h : m.wf = true) (addr : Word) (i : Nat) (bs : List Byte) (x : Nat)
    (hx : ∀ j, j < bs.length → x ≠ byteAddr addr (i + j)) : (writeBytes m addr i bs).read x = m.read x := by
  induction bs generalizing m i with
  | nil => rfl
  | cons b bs ih =>
    have h0 := hx 0 (by simp)
    have hr := ih (Memory.write_wf h b (byteAddr_lt addr i)) (i + 1) (fun j hj => by
      have := hx (j + 1) (by simp only [List.length_cons]; omega)
      rwa [show i + (j + 1) = i + 1 + j by omega] at this)
    exact hr.trans ((Memory.read_write h _ b x).trans (if_neg h0))

/-- Different offsets below `2^32` are different addresses. -/
theorem byteAddr_inj {addr : Word} {i j : Nat} (hi : i < 2 ^ 32) (hj : j < 2 ^ 32) (h : byteAddr addr i = byteAddr addr j) :
    i = j := by
  have h' : BitVec.ofNat 32 i = BitVec.ofNat 32 j := by
    have := BitVec.eq_of_toNat_eq h
    exact (BitVec.add_right_inj addr).mp this
  have := congrArg BitVec.toNat h'
  rwa [BitVec.toNat_ofNat, BitVec.toNat_ofNat, Nat.mod_eq_of_lt hi, Nat.mod_eq_of_lt hj] at this

/-- Each stored byte is read back at its address. -/
theorem read_writeBytes {m : Memory} (h : m.wf = true) (addr : Word) (i : Nat) (bs : List Byte) (j : Nat)
    (hj : j < bs.length) (hn : i + bs.length ≤ 2 ^ 32) :
    (writeBytes m addr i bs).read (byteAddr addr (i + j)) = bs[j] := by
  induction bs generalizing m i j with
  | nil => simp at hj
  | cons b bs ih =>
    simp only [List.length_cons] at hj hn
    have hw := Memory.write_wf h b (byteAddr_lt addr i)
    cases j with
    | zero =>
      refine (read_writeBytes_outside hw addr (i + 1) bs _ fun k hk e => ?_).trans ?_
      · have := byteAddr_inj (by omega) (by omega) e
        omega
      · rw [Memory.read_write h]
        simp
    | succ j =>
      have := ih hw (i + 1) j (by omega) (by omega)
      simpa [show i + 1 + j = i + (j + 1) by omega, writeBytes] using this

/-- What a reset leaves in memory is in canonical form. -/
theorem landBytes_wf {s : State} {m : Memory} (h : m.wf = true) (n : Nat) (hn : s.cfg.dstBase.toNat + n ≤ 2 ^ 32) :
    (landBytes s n m).wf = true := by
  induction n with
  | zero => exact h
  | succ n ih => exact Memory.write_wf (ih (by omega)) _ (by omega)

/-- Two canonical memories with the same bytes are the same data. -/
theorem Memory.ext_from {m m' : Memory} {lo lo' : Nat} (h : Memory.wfFrom m lo = true) (h' : Memory.wfFrom m' lo' = true)
    (he : ∀ a, m.read a = m'.read a) : m = m' := by
  induction m generalizing m' lo lo' with
  | nil =>
    cases m' with
    | nil => rfl
    | cons c' m' =>
      have := he c'.1
      rw [Memory.read_cons, if_pos rfl] at this
      exact absurd this.symm ((Memory.wfFrom_cons _ _ _).mp h').2.2.1
  | cons c m ih =>
    have hc := (Memory.wfFrom_cons _ _ _).mp h
    cases m' with
    | nil =>
      have := he c.1
      rw [Memory.read_cons, if_pos rfl] at this
      exact absurd this hc.2.2.1
    | cons c' m' =>
      have hc' := (Memory.wfFrom_cons _ _ _).mp h'
      have key : c.1 = c'.1 := by
        rcases Nat.lt_trichotomy c.1 c'.1 with hlt | heq | hgt
        · have e := he c.1
          rw [Memory.read_cons, if_pos rfl,
            Memory.read_below ((Memory.wfFrom_cons c' m' c'.1).mpr ⟨le_refl _, hc'.2⟩) hlt] at e
          exact absurd e hc.2.2.1
        · exact heq
        · have e := he c'.1
          rw [Memory.read_cons c' m' c'.1, if_pos rfl,
            Memory.read_below ((Memory.wfFrom_cons c m c.1).mpr ⟨le_refl _, hc.2⟩) hgt] at e
          exact absurd e.symm hc'.2.2.1
      have hv : c.2 = c'.2 := by
        have e := he c.1
        rwa [Memory.read_cons, if_pos rfl, Memory.read_cons, if_pos key.symm] at e
      have ht : m = m' := ih hc.2.2.2 hc'.2.2.2 fun a => by
        have e := he a
        rw [Memory.read_cons, Memory.read_cons] at e
        by_cases ha : c.1 = a
        · rw [Memory.read_below hc.2.2.2 (by omega), Memory.read_below hc'.2.2.2 (by omega)]
        · rwa [if_neg ha, if_neg (by omega)] at e
      rw [ht, show c = c' from Prod.ext key hv]

end Sys2Proof.Machine
end

