-- ==== Sys2Proof/Laws/State.lean ====
section
/-!
SUPPORT. One lemma per field per update of State, so that no proof unfolds a record update.
-/

namespace Sys2Proof.Machine

@[simp] theorem State.goto_layout (s : State) (c : PhaseCode) : (s.goto c).layout = s.layout := rfl
@[simp] theorem State.goto_cfg (s : State) (c : PhaseCode) : (s.goto c).cfg = s.cfg := rfl
@[simp] theorem State.goto_status (s : State) (c : PhaseCode) : (s.goto c).status = s.status := rfl
@[simp] theorem State.goto_seq (s : State) (c : PhaseCode) : (s.goto c).seq = { s.seq with phase := c } := rfl
@[simp] theorem State.goto_dp (s : State) (c : PhaseCode) : (s.goto c).dp = s.dp := rfl
@[simp] theorem State.goto_rdata (s : State) (c : PhaseCode) : (s.goto c).rdata = s.rdata := rfl
@[simp] theorem State.goto_mem (s : State) (c : PhaseCode) : (s.goto c).mem = s.mem := rfl
@[simp] theorem State.goto_platform (s : State) (c : PhaseCode) : (s.goto c).platform = s.platform := rfl
@[simp] theorem State.goto_mdata (s : State) (c : PhaseCode) : (s.goto c).mdata = s.mdata := rfl
@[simp] theorem State.goto_launchMem (s : State) (c : PhaseCode) : (s.goto c).launchMem = s.launchMem := rfl
@[simp] theorem State.goto_owed (s : State) (c : PhaseCode) : (s.goto c).owed = s.owed := rfl
@[simp] theorem State.goto_draws (s : State) (c : PhaseCode) : (s.goto c).draws = s.draws := rfl
@[simp] theorem State.goto_agenda (s : State) (c : PhaseCode) : (s.goto c).agenda = s.agenda := rfl

@[simp] theorem State.setSeq_layout (s : State) (q : SeqRegs) : (s.setSeq q).layout = s.layout := rfl
@[simp] theorem State.setSeq_cfg (s : State) (q : SeqRegs) : (s.setSeq q).cfg = s.cfg := rfl
@[simp] theorem State.setSeq_status (s : State) (q : SeqRegs) : (s.setSeq q).status = s.status := rfl
@[simp] theorem State.setSeq_seq (s : State) (q : SeqRegs) : (s.setSeq q).seq = q := rfl
@[simp] theorem State.setSeq_dp (s : State) (q : SeqRegs) : (s.setSeq q).dp = s.dp := rfl
@[simp] theorem State.setSeq_rdata (s : State) (q : SeqRegs) : (s.setSeq q).rdata = s.rdata := rfl
@[simp] theorem State.setSeq_mem (s : State) (q : SeqRegs) : (s.setSeq q).mem = s.mem := rfl
@[simp] theorem State.setSeq_platform (s : State) (q : SeqRegs) : (s.setSeq q).platform = s.platform := rfl
@[simp] theorem State.setSeq_mdata (s : State) (q : SeqRegs) : (s.setSeq q).mdata = s.mdata := rfl
@[simp] theorem State.setSeq_launchMem (s : State) (q : SeqRegs) : (s.setSeq q).launchMem = s.launchMem := rfl
@[simp] theorem State.setSeq_owed (s : State) (q : SeqRegs) : (s.setSeq q).owed = s.owed := rfl
@[simp] theorem State.setSeq_draws (s : State) (q : SeqRegs) : (s.setSeq q).draws = s.draws := rfl
@[simp] theorem State.setSeq_agenda (s : State) (q : SeqRegs) : (s.setSeq q).agenda = s.agenda := rfl

@[simp] theorem State.setDp_layout (s : State) (d : Datapath) : (s.setDp d).layout = s.layout := rfl
@[simp] theorem State.setDp_cfg (s : State) (d : Datapath) : (s.setDp d).cfg = s.cfg := rfl
@[simp] theorem State.setDp_status (s : State) (d : Datapath) : (s.setDp d).status = s.status := rfl
@[simp] theorem State.setDp_seq (s : State) (d : Datapath) : (s.setDp d).seq = s.seq := rfl
@[simp] theorem State.setDp_dp (s : State) (d : Datapath) : (s.setDp d).dp = d := rfl
@[simp] theorem State.setDp_rdata (s : State) (d : Datapath) : (s.setDp d).rdata = s.rdata := rfl
@[simp] theorem State.setDp_mem (s : State) (d : Datapath) : (s.setDp d).mem = s.mem := rfl
@[simp] theorem State.setDp_platform (s : State) (d : Datapath) : (s.setDp d).platform = s.platform := rfl
@[simp] theorem State.setDp_mdata (s : State) (d : Datapath) : (s.setDp d).mdata = s.mdata := rfl
@[simp] theorem State.setDp_launchMem (s : State) (d : Datapath) : (s.setDp d).launchMem = s.launchMem := rfl
@[simp] theorem State.setDp_owed (s : State) (d : Datapath) : (s.setDp d).owed = s.owed := rfl
@[simp] theorem State.setDp_draws (s : State) (d : Datapath) : (s.setDp d).draws = s.draws := rfl
@[simp] theorem State.setDp_agenda (s : State) (d : Datapath) : (s.setDp d).agenda = s.agenda := rfl

@[simp] theorem State.setStatus_layout (s : State) (x : Status) : (s.setStatus x).layout = s.layout := rfl
@[simp] theorem State.setStatus_cfg (s : State) (x : Status) : (s.setStatus x).cfg = s.cfg := rfl
@[simp] theorem State.setStatus_status (s : State) (x : Status) : (s.setStatus x).status = x := rfl
@[simp] theorem State.setStatus_seq (s : State) (x : Status) : (s.setStatus x).seq = s.seq := rfl
@[simp] theorem State.setStatus_dp (s : State) (x : Status) : (s.setStatus x).dp = s.dp := rfl
@[simp] theorem State.setStatus_rdata (s : State) (x : Status) : (s.setStatus x).rdata = s.rdata := rfl
@[simp] theorem State.setStatus_mem (s : State) (x : Status) : (s.setStatus x).mem = s.mem := rfl
@[simp] theorem State.setStatus_platform (s : State) (x : Status) : (s.setStatus x).platform = s.platform := rfl
@[simp] theorem State.setStatus_mdata (s : State) (x : Status) : (s.setStatus x).mdata = s.mdata := rfl
@[simp] theorem State.setStatus_launchMem (s : State) (x : Status) : (s.setStatus x).launchMem = s.launchMem := rfl
@[simp] theorem State.setStatus_owed (s : State) (x : Status) : (s.setStatus x).owed = s.owed := rfl
@[simp] theorem State.setStatus_draws (s : State) (x : Status) : (s.setStatus x).draws = s.draws := rfl
@[simp] theorem State.setStatus_agenda (s : State) (x : Status) : (s.setStatus x).agenda = s.agenda := rfl

@[simp] theorem State.setCfg_layout (s : State) (c : HostRegs) : (s.setCfg c).layout = s.layout := rfl
@[simp] theorem State.setCfg_cfg (s : State) (c : HostRegs) : (s.setCfg c).cfg = c := rfl
@[simp] theorem State.setCfg_status (s : State) (c : HostRegs) : (s.setCfg c).status = s.status := rfl
@[simp] theorem State.setCfg_seq (s : State) (c : HostRegs) : (s.setCfg c).seq = s.seq := rfl
@[simp] theorem State.setCfg_dp (s : State) (c : HostRegs) : (s.setCfg c).dp = s.dp := rfl
@[simp] theorem State.setCfg_rdata (s : State) (c : HostRegs) : (s.setCfg c).rdata = s.rdata := rfl
@[simp] theorem State.setCfg_mem (s : State) (c : HostRegs) : (s.setCfg c).mem = s.mem := rfl
@[simp] theorem State.setCfg_platform (s : State) (c : HostRegs) : (s.setCfg c).platform = s.platform := rfl
@[simp] theorem State.setCfg_mdata (s : State) (c : HostRegs) : (s.setCfg c).mdata = s.mdata := rfl
@[simp] theorem State.setCfg_launchMem (s : State) (c : HostRegs) : (s.setCfg c).launchMem = s.launchMem := rfl
@[simp] theorem State.setCfg_owed (s : State) (c : HostRegs) : (s.setCfg c).owed = s.owed := rfl
@[simp] theorem State.setCfg_draws (s : State) (c : HostRegs) : (s.setCfg c).draws = s.draws := rfl
@[simp] theorem State.setCfg_agenda (s : State) (c : HostRegs) : (s.setCfg c).agenda = s.agenda := rfl

@[simp] theorem State.setMem_layout (s : State) (m : Memory) : (s.setMem m).layout = s.layout := rfl
@[simp] theorem State.setMem_cfg (s : State) (m : Memory) : (s.setMem m).cfg = s.cfg := rfl
@[simp] theorem State.setMem_status (s : State) (m : Memory) : (s.setMem m).status = s.status := rfl
@[simp] theorem State.setMem_seq (s : State) (m : Memory) : (s.setMem m).seq = s.seq := rfl
@[simp] theorem State.setMem_dp (s : State) (m : Memory) : (s.setMem m).dp = s.dp := rfl
@[simp] theorem State.setMem_rdata (s : State) (m : Memory) : (s.setMem m).rdata = s.rdata := rfl
@[simp] theorem State.setMem_mem (s : State) (m : Memory) : (s.setMem m).mem = m := rfl
@[simp] theorem State.setMem_platform (s : State) (m : Memory) : (s.setMem m).platform = s.platform := rfl
@[simp] theorem State.setMem_mdata (s : State) (m : Memory) : (s.setMem m).mdata = s.mdata := rfl
@[simp] theorem State.setMem_launchMem (s : State) (m : Memory) : (s.setMem m).launchMem = s.launchMem := rfl
@[simp] theorem State.setMem_owed (s : State) (m : Memory) : (s.setMem m).owed = s.owed := rfl
@[simp] theorem State.setMem_draws (s : State) (m : Memory) : (s.setMem m).draws = s.draws := rfl
@[simp] theorem State.setMem_agenda (s : State) (m : Memory) : (s.setMem m).agenda = s.agenda := rfl

@[simp] theorem State.setRdata_layout (s : State) (v : Word) : (s.setRdata v).layout = s.layout := rfl
@[simp] theorem State.setRdata_cfg (s : State) (v : Word) : (s.setRdata v).cfg = s.cfg := rfl
@[simp] theorem State.setRdata_status (s : State) (v : Word) : (s.setRdata v).status = s.status := rfl
@[simp] theorem State.setRdata_seq (s : State) (v : Word) : (s.setRdata v).seq = s.seq := rfl
@[simp] theorem State.setRdata_dp (s : State) (v : Word) : (s.setRdata v).dp = s.dp := rfl
@[simp] theorem State.setRdata_rdata (s : State) (v : Word) : (s.setRdata v).rdata = v := rfl
@[simp] theorem State.setRdata_mem (s : State) (v : Word) : (s.setRdata v).mem = s.mem := rfl
@[simp] theorem State.setRdata_platform (s : State) (v : Word) : (s.setRdata v).platform = s.platform := rfl
@[simp] theorem State.setRdata_mdata (s : State) (v : Word) : (s.setRdata v).mdata = s.mdata := rfl
@[simp] theorem State.setRdata_launchMem (s : State) (v : Word) : (s.setRdata v).launchMem = s.launchMem := rfl
@[simp] theorem State.setRdata_owed (s : State) (v : Word) : (s.setRdata v).owed = s.owed := rfl
@[simp] theorem State.setRdata_draws (s : State) (v : Word) : (s.setRdata v).draws = s.draws := rfl
@[simp] theorem State.setRdata_agenda (s : State) (v : Word) : (s.setRdata v).agenda = s.agenda := rfl

@[simp] theorem State.setMdata_layout (s : State) (b : Byte) : (s.setMdata b).layout = s.layout := rfl
@[simp] theorem State.setMdata_cfg (s : State) (b : Byte) : (s.setMdata b).cfg = s.cfg := rfl
@[simp] theorem State.setMdata_status (s : State) (b : Byte) : (s.setMdata b).status = s.status := rfl
@[simp] theorem State.setMdata_seq (s : State) (b : Byte) : (s.setMdata b).seq = s.seq := rfl
@[simp] theorem State.setMdata_dp (s : State) (b : Byte) : (s.setMdata b).dp = s.dp := rfl
@[simp] theorem State.setMdata_rdata (s : State) (b : Byte) : (s.setMdata b).rdata = s.rdata := rfl
@[simp] theorem State.setMdata_mem (s : State) (b : Byte) : (s.setMdata b).mem = s.mem := rfl
@[simp] theorem State.setMdata_platform (s : State) (b : Byte) : (s.setMdata b).platform = s.platform := rfl
@[simp] theorem State.setMdata_mdata (s : State) (b : Byte) : (s.setMdata b).mdata = b := rfl
@[simp] theorem State.setMdata_launchMem (s : State) (b : Byte) : (s.setMdata b).launchMem = s.launchMem := rfl
@[simp] theorem State.setMdata_owed (s : State) (b : Byte) : (s.setMdata b).owed = s.owed := rfl
@[simp] theorem State.setMdata_draws (s : State) (b : Byte) : (s.setMdata b).draws = s.draws := rfl
@[simp] theorem State.setMdata_agenda (s : State) (b : Byte) : (s.setMdata b).agenda = s.agenda := rfl

@[simp] theorem State.setLaunchMem_layout (s : State) (m : Memory) : (s.setLaunchMem m).layout = s.layout := rfl
@[simp] theorem State.setLaunchMem_cfg (s : State) (m : Memory) : (s.setLaunchMem m).cfg = s.cfg := rfl
@[simp] theorem State.setLaunchMem_status (s : State) (m : Memory) : (s.setLaunchMem m).status = s.status := rfl
@[simp] theorem State.setLaunchMem_seq (s : State) (m : Memory) : (s.setLaunchMem m).seq = s.seq := rfl
@[simp] theorem State.setLaunchMem_dp (s : State) (m : Memory) : (s.setLaunchMem m).dp = s.dp := rfl
@[simp] theorem State.setLaunchMem_rdata (s : State) (m : Memory) : (s.setLaunchMem m).rdata = s.rdata := rfl
@[simp] theorem State.setLaunchMem_mem (s : State) (m : Memory) : (s.setLaunchMem m).mem = s.mem := rfl
@[simp] theorem State.setLaunchMem_platform (s : State) (m : Memory) : (s.setLaunchMem m).platform = s.platform := rfl
@[simp] theorem State.setLaunchMem_mdata (s : State) (m : Memory) : (s.setLaunchMem m).mdata = s.mdata := rfl
@[simp] theorem State.setLaunchMem_launchMem (s : State) (m : Memory) : (s.setLaunchMem m).launchMem = m := rfl
@[simp] theorem State.setLaunchMem_owed (s : State) (m : Memory) : (s.setLaunchMem m).owed = s.owed := rfl
@[simp] theorem State.setLaunchMem_draws (s : State) (m : Memory) : (s.setLaunchMem m).draws = s.draws := rfl
@[simp] theorem State.setLaunchMem_agenda (s : State) (m : Memory) : (s.setLaunchMem m).agenda = s.agenda := rfl

@[simp] theorem State.setOwed_layout (s : State) (cs : List HostRegs) : (s.setOwed cs).layout = s.layout := rfl
@[simp] theorem State.setOwed_cfg (s : State) (cs : List HostRegs) : (s.setOwed cs).cfg = s.cfg := rfl
@[simp] theorem State.setOwed_status (s : State) (cs : List HostRegs) : (s.setOwed cs).status = s.status := rfl
@[simp] theorem State.setOwed_seq (s : State) (cs : List HostRegs) : (s.setOwed cs).seq = s.seq := rfl
@[simp] theorem State.setOwed_dp (s : State) (cs : List HostRegs) : (s.setOwed cs).dp = s.dp := rfl
@[simp] theorem State.setOwed_rdata (s : State) (cs : List HostRegs) : (s.setOwed cs).rdata = s.rdata := rfl
@[simp] theorem State.setOwed_mem (s : State) (cs : List HostRegs) : (s.setOwed cs).mem = s.mem := rfl
@[simp] theorem State.setOwed_platform (s : State) (cs : List HostRegs) : (s.setOwed cs).platform = s.platform := rfl
@[simp] theorem State.setOwed_mdata (s : State) (cs : List HostRegs) : (s.setOwed cs).mdata = s.mdata := rfl
@[simp] theorem State.setOwed_launchMem (s : State) (cs : List HostRegs) : (s.setOwed cs).launchMem = s.launchMem := rfl
@[simp] theorem State.setOwed_owed (s : State) (cs : List HostRegs) : (s.setOwed cs).owed = cs := rfl
@[simp] theorem State.setOwed_draws (s : State) (cs : List HostRegs) : (s.setOwed cs).draws = s.draws := rfl
@[simp] theorem State.setOwed_agenda (s : State) (cs : List HostRegs) : (s.setOwed cs).agenda = s.agenda := rfl

@[simp] theorem State.setAgenda_layout (s : State) (es : List Event) : (s.setAgenda es).layout = s.layout := rfl
@[simp] theorem State.setAgenda_cfg (s : State) (es : List Event) : (s.setAgenda es).cfg = s.cfg := rfl
@[simp] theorem State.setAgenda_status (s : State) (es : List Event) : (s.setAgenda es).status = s.status := rfl
@[simp] theorem State.setAgenda_seq (s : State) (es : List Event) : (s.setAgenda es).seq = s.seq := rfl
@[simp] theorem State.setAgenda_dp (s : State) (es : List Event) : (s.setAgenda es).dp = s.dp := rfl
@[simp] theorem State.setAgenda_rdata (s : State) (es : List Event) : (s.setAgenda es).rdata = s.rdata := rfl
@[simp] theorem State.setAgenda_mem (s : State) (es : List Event) : (s.setAgenda es).mem = s.mem := rfl
@[simp] theorem State.setAgenda_platform (s : State) (es : List Event) : (s.setAgenda es).platform = s.platform := rfl
@[simp] theorem State.setAgenda_mdata (s : State) (es : List Event) : (s.setAgenda es).mdata = s.mdata := rfl
@[simp] theorem State.setAgenda_launchMem (s : State) (es : List Event) : (s.setAgenda es).launchMem = s.launchMem := rfl
@[simp] theorem State.setAgenda_owed (s : State) (es : List Event) : (s.setAgenda es).owed = s.owed := rfl
@[simp] theorem State.setAgenda_draws (s : State) (es : List Event) : (s.setAgenda es).draws = s.draws := rfl
@[simp] theorem State.setAgenda_agenda (s : State) (es : List Event) : (s.setAgenda es).agenda = es := rfl

end Sys2Proof.Machine
end

