-- ==== Sys2Proof/Laws/Ops.lean ====
section
/-!
SUPPORT. One lemma per shared operation: everything it can answer.
-/

namespace Sys2Proof.Machine

/-- What `CHECK` accepts, as facts on exact integers (R201). -/
theorem checkFault_none_iff (c : HostRegs) :
    checkFault c = none ↔
      0 < c.width.toNat ∧ 0 < c.height.toNat ∧ c.width.toNat % 2 = 0 ∧ 2 * c.width.toNat ≤ c.srcStride.toNat ∧
      srcExtent c ≤ c.srcLen.toNat ∧ dstExtent c ≤ c.dstLen.toNat ∧ c.srcBase.toNat + srcExtent c ≤ 2 ^ 32 ∧
      c.dstBase.toNat + dstExtent c ≤ 2 ^ 32 ∧
      (c.dstBase.toNat + dstExtent c ≤ c.srcBase.toNat ∨ c.srcBase.toNat + srcExtent c ≤ c.dstBase.toNat) := by
  unfold checkFault
  split_ifs <;> simp only [false_iff, true_iff] <;> omega

/-- Two answers are ordinary memory together exactly when each is. -/
theorem Answer.and_eq_memory (x y : Answer) : x.and y = .memory ↔ x = .memory ∧ y = .memory := by
  cases x <;> cases y <;> simp [Answer.and]

/-- Some answer is a device's exactly when one of the two is. -/
theorem Answer.and_eq_device (x y : Answer) : x.and y = .device ↔ x = .device ∨ y = .device := by
  cases x <;> cases y <;> simp [Answer.and]

/-- An access meets ordinary memory exactly when each of its bytes does. -/
theorem answers_eq_memory (p : List Window) (addr : Word) (n : Nat) :
    answers p addr n = .memory ↔ ∀ i, i < n → answerAt p (byteAddr addr i) = .memory := by
  induction n with
  | zero => simp [answers]
  | succ n ih =>
    rw [answers, Answer.and_eq_memory, ih]
    exact ⟨fun h i hi => (Nat.lt_succ_iff_lt_or_eq.mp hi).elim (h.1 i) (fun e => e ▸ h.2),
      fun h => ⟨fun i hi => h i (by omega), h n (by omega)⟩⟩

/-- An access meets a device exactly when one of its bytes does. -/
theorem answers_eq_device (p : List Window) (addr : Word) (n : Nat) :
    answers p addr n = .device ↔ ∃ i, i < n ∧ answerAt p (byteAddr addr i) = .device := by
  induction n with
  | zero => simp [answers]
  | succ n ih =>
    rw [answers, Answer.and_eq_device, ih]
    constructor
    · rintro (⟨i, hi, h⟩ | h)
      · exact ⟨i, by omega, h⟩
      · exact ⟨n, by omega, h⟩
    · rintro ⟨i, hi, h⟩
      rcases Nat.lt_succ_iff_lt_or_eq.mp hi with h' | rfl
      · exact .inl ⟨i, h', h⟩
      · exact .inr h

/-- An access that goes on met ordinary memory at every byte, and its effect is the given one. -/
theorem withAccess_next {s t u : State} {addr : Word} {n : Nat} (h : withAccess s addr n u = .next t) :
    t = u ∧ ∀ i, i < n → answerAt s.platform (byteAddr addr i) = .memory := by
  unfold withAccess at h
  split at h
  · next ha => exact ⟨by cases h; rfl, (answers_eq_memory _ _ _).mp ha⟩
  · cases h
  · cases h

/-- Where ordinary memory answers at every byte the access happens. -/
theorem withAccess_memory {s : State} {addr : Word} {n : Nat} (u : State)
    (h : ∀ i, i < n → answerAt s.platform (byteAddr addr i) = .memory) : withAccess s addr n u = .next u := by
  unfold withAccess
  rw [(answers_eq_memory _ _ _).mpr h]

/-- Taking a configuration fault writes `STATUS` and `PHASE` and nothing else (R14). -/
theorem raiseConfigFault_eq (f : ConfigFault) (s : State) :
    raiseConfigFault f s = { s with status := statusFaulted f, seq := { s.seq with phase := 0x00#5 } } := rfl

/-- A configuration write stores while idle and is dropped while busy (R133). -/
theorem writeCfg_cases (s : State) (c : HostRegs) :
    (s.status.busy = false ∧ writeCfg s c = s.setCfg c) ∨ (s.status.busy = true ∧ writeCfg s c = s) := by
  unfold writeCfg
  cases h : s.status.busy <;> simp

/-- A HOST read that goes on breaks no duty and only records the byte read. -/
theorem hostRead_next {s t : State} {a : Word} (h : hostRead a s = .next t) :
    dutyOfRead s a.toNat = none ∧ t = s.setMdata (s.mem.read a.toNat) := by
  unfold hostRead at h
  split at h
  · cases h
  · next hd => exact ⟨hd, (withAccess_next h).1⟩

/-- A HOST write that goes on breaks no duty and only writes the byte. -/
theorem hostWrite_next {s t : State} {a : Word} {b : Byte} (h : hostWrite a b s = .next t) :
    dutyOfWrite s a.toNat = none ∧ t = s.setMem (s.mem.write a.toNat b) := by
  unfold hostWrite at h
  split at h
  · cases h
  · next hd => exact ⟨hd, (withAccess_next h).1⟩

@[simp] theorem launched_layout (s : State) : (launched s).layout = s.layout := rfl
@[simp] theorem launched_cfg (s : State) : (launched s).cfg = s.cfg := rfl
@[simp] theorem launched_status (s : State) : (launched s).status = statusStarted := rfl
@[simp] theorem launched_seq (s : State) : (launched s).seq = { s.seq with phase := 0x01#5 } := rfl
@[simp] theorem launched_dp (s : State) : (launched s).dp = s.dp := rfl
@[simp] theorem launched_rdata (s : State) : (launched s).rdata = s.rdata := rfl
@[simp] theorem launched_mem (s : State) : (launched s).mem = s.mem := rfl
@[simp] theorem launched_platform (s : State) : (launched s).platform = s.platform := rfl
@[simp] theorem launched_mdata (s : State) : (launched s).mdata = s.mdata := rfl
@[simp] theorem launched_launchMem (s : State) : (launched s).launchMem = s.mem := rfl
@[simp] theorem launched_owed (s : State) : (launched s).owed = s.cfg :: s.owed := rfl
@[simp] theorem launched_draws (s : State) : (launched s).draws = s.draws := rfl
@[simp] theorem launched_agenda (s : State) : (launched s).agenda = s.agenda := rfl

/-- The runs HOST has duties on: the one in progress and those whose end it has not seen (R87, R256). -/
theorem mem_dutyRuns {s : State} {c : HostRegs} :
    c ∈ dutyRuns s ↔ (s.status.busy = true ∧ c = s.cfg) ∨ c ∈ s.owed := by
  unfold dutyRuns
  cases s.status.busy <;> simp

/-- A read breaks no duty exactly when it is outside the destination of every run HOST has duties on. -/
theorem dutyOfRead_eq_none {s : State} {a : Nat} :
    dutyOfRead s a = none ↔ ∀ c ∈ dutyRuns s, inDestination c a = false := by
  unfold dutyOfRead
  cases h : (dutyRuns s).any (inDestination · a) with
  | true =>
    obtain ⟨c, hc, hd⟩ := List.any_eq_true.mp h
    exact ⟨fun e => by simp at e, fun e => absurd (e c hc) (by simp [hd])⟩
  | false => simpa using h

/-- A write breaks no duty exactly when it is outside the payload and the destination of every run HOST has duties on. -/
theorem dutyOfWrite_eq_none {s : State} {a : Nat} :
    dutyOfWrite s a = none ↔ ∀ c ∈ dutyRuns s, inPayload c a = false ∧ inDestination c a = false := by
  unfold dutyOfWrite
  cases h1 : (dutyRuns s).any (inPayload · a) with
  | true =>
    obtain ⟨c, hc, hd⟩ := List.any_eq_true.mp h1
    exact ⟨fun e => by simp at e, fun e => absurd (e c hc).1 (by simp [hd])⟩
  | false =>
    cases h2 : (dutyRuns s).any (inDestination · a) with
    | true =>
      obtain ⟨c, hc, hd⟩ := List.any_eq_true.mp h2
      exact ⟨fun e => by simp at e, fun e => absurd (e c hc).2 (by simp [hd])⟩
    | false =>
      simp only [List.any_eq_false, Bool.not_eq_true] at h1 h2
      exact ⟨fun _ c hc => ⟨h1 c hc, h2 c hc⟩, fun _ => rfl⟩

/-- A write that breaks no duty while busy is outside the payload and the destination of the run (R87). -/
theorem dutyOfWrite_none {s : State} {a : Nat} (h : dutyOfWrite s a = none) (hb : s.status.busy = true) :
    inPayload s.cfg a = false ∧ inDestination s.cfg a = false :=
  dutyOfWrite_eq_none.mp h s.cfg (mem_dutyRuns.mpr (.inl ⟨hb, rfl⟩))

/-- The payload lies in the source region of a configuration whose stride holds a row (R71). -/
theorem inPayload_inSource {c : HostRegs} {a : Nat} (hs : 2 * c.width.toNat ≤ c.srcStride.toNat)
    (h : inPayload c a = true) : inSource c a = true := by
  simp only [inPayload, inSource, Bool.and_eq_true, decide_eq_true_eq] at h ⊢
  unfold srcExtent
  obtain ⟨⟨hh, hb⟩, hx⟩ := h
  refine ⟨hb, ?_⟩
  generalize hr : min ((a - c.srcBase.toNat) / c.srcStride.toNat) (c.height.toNat - 1) = r at hx
  have hrh : r + 1 ≤ c.height.toNat := by omega
  have hmul := Nat.mul_le_mul_right c.srcStride.toNat hrh
  rw [Nat.add_mul, Nat.one_mul] at hmul
  rw [Nat.mul_comm c.srcStride.toNat]
  omega

end Sys2Proof.Machine
end

