-- ==== Sys2Proof/Laws/Step.lean ====
section
/-!
SUPPORT. What a step can do, said once: which event happened, and what each kind of event leaves.
-/

namespace Sys2Proof.Machine

/-- A `PHASE` code that decodes is the code of the instruction it decodes to (R108). -/
theorem decodeUop_ok {c : PhaseCode} {i : Instr} (h : decodeUop c = .ok i) : encode i = .uop c := by
  have key : ∀ c : PhaseCode, ∀ i, decodeUop c = .ok i → encode i = .uop c := by
    intro c i hc
    have hlt := c.isLt
    have hc' : c = BitVec.ofNat 5 c.toNat := by simp
    rw [hc'] at hc ⊢
    generalize c.toNat = n at hc hlt ⊢
    interval_cases n <;> (first | (cases hc; rfl) | cases hc)
  exact key c i h

/-- The codes below 0x14 decode (R108). -/
theorem decodeUop_of_lt {c : PhaseCode} (h : c.toNat < 0x14) : ∃ i, decodeUop c = .ok i := by
  have hc' : c = BitVec.ofNat 5 c.toNat := by simp
  rw [hc']
  generalize c.toNat = n at h ⊢
  interval_cases n <;> exact ⟨_, rfl⟩

/-- The reserved codes do not (R111). -/
theorem decodeUop_reserved {c : PhaseCode} (h : 0x14 ≤ c.toNat) : decodeUop c = .error (.reservedPhase c) := by
  have hlt := c.isLt
  have hc' : c = BitVec.ofNat 5 c.toNat := by simp
  rw [hc']
  generalize c.toNat = n at h hlt ⊢
  interval_cases n <;> rfl

/-- Everything a host command can leave: the state as it was, a value returned and perhaps the duties ended, a run begun, or a
configuration register written while idle (R130 to R144, R256). -/
theorem exec_decodeHt (w : HtWord) (s : State) :
    ∃ t, exec (decodeHt w) s = .next t ∧
      ((t = s ∧ (∀ n, decodeHt w ≠ .regrd n) ∧ (decodeHt w = .start → s.status.busy = true)) ∨
        (∃ n, decodeHt w = .regrd n ∧ t = (s.setRdata (readSlot s n)).setOwed (owedAfterRead s n)) ∨
        (s.status.busy = false ∧ decodeHt w = .start ∧ t = launched s) ∨
        (s.status.busy = false ∧ (∀ n, decodeHt w ≠ .regrd n) ∧ decodeHt w ≠ .start ∧ ∃ c, t = s.setCfg c)) := by
  have cfgCase : ∀ (i : Instr) c, (∀ n, i ≠ .regrd n) → i ≠ .start →
      (writeCfg s c = s ∧ (∀ n, i ≠ .regrd n) ∧ (i = .start → s.status.busy = true)) ∨
      (∃ n, i = .regrd n ∧ writeCfg s c = (s.setRdata (readSlot s n)).setOwed (owedAfterRead s n)) ∨
      (s.status.busy = false ∧ i = .start ∧ writeCfg s c = launched s) ∨
      (s.status.busy = false ∧ (∀ n, i ≠ .regrd n) ∧ i ≠ .start ∧ ∃ c', writeCfg s c = s.setCfg c') := fun i c hr hs => by
    rcases writeCfg_cases s c with ⟨hb, h⟩ | ⟨_, h⟩
    · exact .inr (.inr (.inr ⟨hb, hr, hs, c, h⟩))
    · exact .inl ⟨h, hr, fun e => absurd e hs⟩
  cases hw : htWrite w with
  | false =>
    have hd : decodeHt w = .regrd (htSlot w) := by rw [decodeHt, hw]; rfl
    exact ⟨_, by rw [hd]; rfl, .inr (.inl ⟨_, hd, rfl⟩)⟩
  | true =>
    have hd : decodeHt w = decodeWrite (htSlot w) (htData w) := by rw [decodeHt, hw]; rfl
    rw [hd]
    generalize htData w = v
    generalize htSlot w = n
    unfold decodeWrite
    split
    · cases hv : v.getLsbD 0 with
      | true =>
        cases hb : s.status.busy with
        | false => exact ⟨_, by simp only [exec, execStart, hb]; rfl, .inr (.inr (.inl ⟨rfl, rfl, rfl⟩))⟩
        | true => exact ⟨_, by simp only [exec, execStart, hb]; rfl, .inl ⟨rfl, by simp, fun _ => rfl⟩⟩
      | false => exact ⟨_, rfl, .inl ⟨rfl, by simp, by simp⟩⟩
    all_goals first
      | exact ⟨_, rfl, cfgCase _ _ (by simp) (by simp)⟩
      | exact ⟨_, rfl, .inl ⟨rfl, by simp, by simp⟩⟩

/-- What a step that goes on did: HOST's command, CONV's operation, a HOST access, or reset. -/
theorem step_next {s t : State} (h : step s = .next t) :
    (∃ w, nextEvent s = .command w ∧ exec (decodeHt w) (takeEvent s) = .next t) ∨
    (∃ i, nextEvent s = .conv ∧ encode i = .uop s.seq.phase ∧ exec i (takeEvent s) = .next t) ∨
    (∃ a, nextEvent s = .hostRead a ∧ dutyOfRead s a.toNat = none ∧ t = (takeEvent s).setMdata (s.mem.read a.toNat)) ∨
    (∃ a b, nextEvent s = .hostWrite a b ∧ dutyOfWrite s a.toNat = none ∧
      t = (takeEvent s).setMem (s.mem.write a.toNat b)) ∨
    (nextEvent s = .reset ∧ t = resetInput (takeEvent s)) := by
  unfold step at h
  generalize nextEvent s = e at h ⊢
  cases e with
  | command w => exact .inl ⟨w, rfl, h⟩
  | conv =>
    refine .inr (.inl ?_)
    have h' : runWord (.uop s.seq.phase) (takeEvent s) = .next t := h
    unfold runWord decode at h'
    cases hd : decodeUop s.seq.phase with
    | ok i =>
      simp only [hd] at h'
      exact ⟨i, rfl, decodeUop_ok hd, h'⟩
    | error e =>
      cases e
      simp only [hd] at h'
      cases h'
  | hostRead a =>
    obtain ⟨h1, h2⟩ := hostRead_next h
    exact .inr (.inr (.inl ⟨a, rfl, h1, h2⟩))
  | hostWrite a b =>
    obtain ⟨h1, h2⟩ := hostWrite_next h
    exact .inr (.inr (.inr (.inl ⟨a, b, rfl, h1, h2⟩)))
  | reset =>
    refine .inr (.inr (.inr (.inr ⟨rfl, ?_⟩)))
    cases h
    rfl

end Sys2Proof.Machine
end

