-- ==== Sys2Proof/Laws/Conv.lean ====
section
/-!
SUPPORT. Everything one operation of CONV can leave, by the code in `PHASE`; and the fields a turn taken off the agenda
keeps.
-/

namespace Sys2Proof.Machine

@[simp] theorem takeEvent_layout (s : State) : (takeEvent s).layout = s.layout := rfl
@[simp] theorem takeEvent_cfg (s : State) : (takeEvent s).cfg = s.cfg := rfl
@[simp] theorem takeEvent_status (s : State) : (takeEvent s).status = s.status := rfl
@[simp] theorem takeEvent_seq (s : State) : (takeEvent s).seq = s.seq := rfl
@[simp] theorem takeEvent_dp (s : State) : (takeEvent s).dp = s.dp := rfl
@[simp] theorem takeEvent_mem (s : State) : (takeEvent s).mem = s.mem := rfl
@[simp] theorem takeEvent_platform (s : State) : (takeEvent s).platform = s.platform := rfl
@[simp] theorem takeEvent_launchMem (s : State) : (takeEvent s).launchMem = s.launchMem := rfl
@[simp] theorem takeEvent_owed (s : State) : (takeEvent s).owed = s.owed := rfl

/-- A lane is 0 or 1 (R35). -/
theorem lane_cases (k : BitVec 1) : k = 0#1 ∨ k = 1#1 := by
  revert k
  decide

/-- What an operation of CONV that goes on leaves, by the code it was selected by (R200 to R205). The operations 0x03 to 0x0E
and `PACK` write datapath registers only, and which ones is in their own definitions. -/
theorem conv_next {i : Instr} {s t : State} (h : encode i = .uop s.seq.phase) (hx : exec i s = .next t) :
    (s.seq.phase = 0x00#5 ∧ t = s) ∨
    (s.seq.phase = 0x01#5 ∧ ((∃ f, checkFault s.cfg = some f ∧ t = raiseConfigFault f s) ∨
      (checkFault s.cfg = none ∧ t = s.setSeq (cursorsAtLaunch s)))) ∨
    (s.seq.phase = 0x02#5 ∧ ∃ g, g = readQuad s.mem s.seq.scur ∧
      t = (s.setDp { s.dp with g0 := g.b0, g1 := g.b1, g2 := g.b2, g3 := g.b3 }).setSeq
        { s.seq with k := 0#1, phase := 0x03#5 }) ∨
    (0x03 ≤ s.seq.phase.toNat ∧ s.seq.phase.toNat ≤ 0x0E ∧
      ∃ d, t = (s.setDp d).goto (BitVec.ofNat 5 (s.seq.phase.toNat + 1)) ∧ d.group = s.dp.group) ∨
    (s.seq.phase = 0x0F#5 ∧ s.seq.k = 0#1 ∧
      ∃ d, t = (s.setDp d).setSeq { s.seq with k := 1#1, phase := 0x08#5 } ∧ d.group = s.dp.group) ∨
    (s.seq.phase = 0x0F#5 ∧ s.seq.k = 1#1 ∧ ∃ d, t = (s.setDp d).goto 0x10#5 ∧ d.group = s.dp.group) ∨
    (s.seq.phase = 0x10#5 ∧ t = (s.setMem (writeBytes s.mem s.seq.dcur 0 s.dp.pairBytes)).goto 0x11#5) ∨
    (s.seq.phase = 0x11#5 ∧ ∃ p, t = s.setSeq { s.seq with
        scur := s.seq.scur + 4#32, dcur := s.seq.dcur + 8#32, col := s.seq.col + 1#32, phase := p } ∧
      p = if s.cfg.width.toNat ≤ 2 * (s.seq.col.toNat + 1) then 0x12#5 else 0x02#5) ∨
    (s.seq.phase = 0x12#5 ∧ ∃ p, t = s.setSeq { s.seq with
        srow := s.seq.srow + s.cfg.srcStride, scur := s.seq.srow + s.cfg.srcStride,
        drow := s.seq.drow + 4#32 * s.cfg.width, dcur := s.seq.drow + 4#32 * s.cfg.width, col := 0#32,
        row := s.seq.row + 1#32, phase := p } ∧
      p = if s.cfg.height.toNat ≤ s.seq.row.toNat + 1 then 0x13#5 else 0x02#5) ∨
    (s.seq.phase = 0x13#5 ∧ t = (s.setStatus (statusFinished s.status)).goto 0x00#5) := by
  cases i <;> simp only [encode, reduceCtorEq, CodeWord.uop.injEq] at h <;> rw [← h] at * <;> simp only [exec] at hx
  case idle => cases hx; simp
  case check =>
    unfold execCheck at hx
    split at hx
    · cases hx; simp [*]
    · split at hx <;> cases hx; simp [*]
  case fetch4 => have := (withAccess_next hx).1; simp [this]
  case pack =>
    unfold execPack at hx
    rcases lane_cases s.seq.k with hk | hk
    · cases hx; rw [if_pos hk]; simp [hk]; exact ⟨_, rfl, rfl⟩
    · cases hx; rw [if_neg (by rw [hk]; decide)]; simp [hk]; exact ⟨_, rfl, rfl⟩
  case store8 => have := (withAccess_next hx).1; simp [this]
  case advance => cases hx; simp
  case nextrow => cases hx; simp
  case finish => cases hx; simp
  all_goals (cases hx; refine .inr (.inr (.inr (.inl ⟨by decide, by decide, ?_⟩))); exact ⟨_, rfl, rfl⟩)

end Sys2Proof.Machine
end

