-- ==== Sys2Proof/Laws/Encoding.lean ====
section
/-!
SUPPORT. The fields of a host-transaction word and of the words HOST reads, as numbers.
-/

namespace Sys2Proof

/-- An `HT` word as a number (R106). -/
theorem htWord_toNat (b : Bool) (n : SlotNo) (v : Word) :
    (htWord b n v).toNat = b.toNat * 2 ^ 36 + n.toNat * 2 ^ 32 + v.toNat := by
  have h : (htWord b n v).toNat = (BitVec.append (BitVec.append (BitVec.ofBool b) n) v).toNat := rfl
  rw [h, BitVec.append_eq, BitVec.toNat_append, BitVec.append_eq, BitVec.toNat_append,
    ← Nat.shiftLeft_add_eq_or_of_lt n.isLt, ← Nat.shiftLeft_add_eq_or_of_lt v.isLt, Nat.shiftLeft_eq, Nat.shiftLeft_eq]
  cases b <;> simp
  omega

/-- The field `rw` is read back. -/
@[simp] theorem htWrite_htWord (b : Bool) (n : SlotNo) (v : Word) : htWrite (htWord b n v) = b := by
  have := n.isLt
  have := v.isLt
  unfold htWrite
  rw [BitVec.getLsbD, Nat.testBit_eq_decide_div_mod_eq, htWord_toNat]
  cases b <;> simp <;> omega

/-- The field `n` is read back. -/
@[simp] theorem htSlot_htWord (b : Bool) (n : SlotNo) (v : Word) : htSlot (htWord b n v) = n := by
  have := n.isLt
  have := v.isLt
  apply BitVec.eq_of_toNat_eq
  unfold htSlot
  rw [BitVec.extractLsb'_toNat, htWord_toNat, Nat.shiftRight_eq_div_pow]
  cases b <;> simp <;> omega

/-- The field `data` is read back. -/
@[simp] theorem htData_htWord (b : Bool) (n : SlotNo) (v : Word) : htData (htWord b n v) = v := by
  have := n.isLt
  have := v.isLt
  apply BitVec.eq_of_toNat_eq
  unfold htData
  rw [BitVec.extractLsb'_toNat, htWord_toNat]
  cases b <;> simp <;> omega

/-- `STATUS` as a number (R23). -/
theorem Machine.statusWord_toNat (x : Machine.Status) :
    (Machine.statusWord x).toNat = x.busy.toNat + 2 * x.done.toNat + 4 * x.err.toNat + 16 * x.errCode.toNat := by
  unfold Machine.statusWord
  rcases x with ⟨b, d, e, c⟩
  have := c.isLt
  rw [BitVec.toNat_setWidth]
  simp only [BitVec.toNat_append, Nat.shiftLeft_eq]
  generalize c.toNat = n at *
  cases b <;> cases d <;> cases e <;> simp <;> interval_cases n <;> rfl

end Sys2Proof
end

