-- ==== Sys2Proof/Laws/Frame.lean ====
section
/-!
SUPPORT. The regions and the frame of a run: the check against the table of fault conditions, where devices meet a launch,
the bytes of a pixel, and what a reset leaves in the destination region.
-/

namespace Sys2Proof.Machine

open Sys2Proof.Safety

/-- An address of an access, modulo the address space (R13). -/
theorem byteAddr_mod (addr : Word) (i : Nat) : byteAddr addr i = (addr.toNat + i) % 2 ^ 32 := by
  unfold byteAddr
  simp [BitVec.toNat_add]

/-- `CHECK` accepts exactly when no condition of R221 holds. -/
theorem checkFault_none_iff_not_holds (c : HostRegs) : checkFault c = none ↔ ∀ f, ¬ FaultHolds c f := by
  constructor
  · intro h f hf
    rw [checkFault_none_iff] at h
    unfold srcExtent dstExtent at h
    cases f <;> simp only [FaultHolds] at hf <;> omega
  · intro h
    have e1 := h .dim
    have e2 := h .oddWidth
    have e3 := h .stride
    have e4 := h .srcSize
    have e5 := h .dstSize
    have e6 := h .addrWrap
    have e7 := h .overlap
    simp only [FaultHolds] at *
    rw [checkFault_none_iff]
    unfold srcExtent dstExtent
    omega

/-- A window meets a range exactly when they share an address. -/
theorem Window.meets_iff (w : Window) (base size : Nat) :
    w.meets base size = true ↔ ∃ a, w.holds a = true ∧ base ≤ a ∧ a < base + size := by
  simp only [Window.meets, Window.holds, Bool.and_eq_true, decide_eq_true_eq]
  constructor
  · rintro ⟨⟨⟨h1, h2⟩, h3⟩, h4⟩
    exact ⟨max base w.base, by omega, by omega, by omega⟩
  · rintro ⟨a, h⟩
    omega

/-- A launch is on a device exactly when an address of one of its regions is a device's (R79). -/
theorem launchOnDevice_iff (s : State) : launchOnDevice s = true ↔
    ∃ a, (inSource s.cfg a = true ∨ inDestination s.cfg a = true) ∧ answerAt s.platform a = .device := by
  have hdev : ∀ a, answerAt s.platform a = .device ↔ inWindow s.platform .device a = true := by
    intro a
    unfold answerAt
    split_ifs <;> simp_all
  simp only [hdev, launchOnDevice, inWindow, List.any_eq_true, Bool.and_eq_true, Bool.or_eq_true, Window.meets_iff, inSource,
    inDestination, decide_eq_true_eq]
  constructor
  · rintro ⟨w, hw, hk, ⟨a, h1, h2⟩ | ⟨a, h1, h2⟩⟩
    · exact ⟨a, .inl h2, w, hw, hk, h1⟩
    · exact ⟨a, .inr h2, w, hw, hk, h1⟩
  · rintro ⟨a, h2 | h2, w, hw, hk, h1⟩
    · exact ⟨w, hw, hk, .inl ⟨a, h1, h2⟩⟩
    · exact ⟨w, hw, hk, .inr ⟨a, h1, h2⟩⟩

/-- The final value of byte `o` of the pixel in row `r`, column `x` (R206). -/
theorem finalByte_pixel (l : Layout) (c : HostRegs) (m0 : Memory) {r x o : Nat} (hx : x < c.width.toNat) (ho : o < 4) :
    finalByte l c m0 (4 * (r * c.width.toNat + x) + o) =
      (groupPixel l (groupAt m0 (groupAddr c r (x / 2))) (BitVec.ofNat 1 (x % 2))).get (Fin.ofNat 4 o) := by
  have e1 : (4 * (r * c.width.toNat + x) + o) / 4 = r * c.width.toNat + x := by omega
  have e2 : (r * c.width.toNat + x) / c.width.toNat = r := by
    rw [Nat.mul_comm, Nat.mul_add_div (by omega), Nat.div_eq_of_lt hx, Nat.add_zero]
  have e3 : (r * c.width.toNat + x) % c.width.toNat = x := by
    rw [Nat.mul_comm, Nat.mul_add_mod, Nat.mod_eq_of_lt hx]
  have e4 : Fin.ofNat 4 (4 * (r * c.width.toNat + x) + o) = Fin.ofNat 4 o := by
    apply Fin.ext
    simp [Fin.ofNat]
  unfold finalByte
  simp only [e1, e2, e3, e4]

/-- A byte of memory after the destination region of a cut-short run has landed as the free choice says (R252). -/
theorem read_landBytes {s : State} {m : Memory} (h : m.wf = true) (n : Nat) (hn : s.cfg.dstBase.toNat + n ≤ 2 ^ 32)
    (a : Nat) :
    (landBytes s n m).read a =
      if s.cfg.dstBase.toNat ≤ a ∧ a < s.cfg.dstBase.toNat + n then
        if Config.landsAtReset s.draws a && answerAt s.platform a == .memory then
          finalByte s.layout s.cfg s.launchMem (a - s.cfg.dstBase.toNat)
        else s.launchMem.read a
      else m.read a := by
  induction n with
  | zero => rw [if_neg (by omega)]; rfl
  | succ n ih =>
    unfold landBytes
    rw [Memory.read_write (landBytes_wf h n (by omega)), ih (by omega)]
    by_cases e : a = s.cfg.dstBase.toNat + n
    · subst e
      rw [if_pos rfl, if_pos (show s.cfg.dstBase.toNat ≤ s.cfg.dstBase.toNat + n ∧
        s.cfg.dstBase.toNat + n < s.cfg.dstBase.toNat + (n + 1) by omega), Nat.add_sub_cancel_left]
    · rw [if_neg e]
      by_cases e2 : s.cfg.dstBase.toNat ≤ a ∧ a < s.cfg.dstBase.toNat + n
      · rw [if_pos e2, if_pos (show s.cfg.dstBase.toNat ≤ a ∧ a < s.cfg.dstBase.toNat + (n + 1) by omega)]
      · rw [if_neg e2, if_neg (show ¬ (s.cfg.dstBase.toNat ≤ a ∧ a < s.cfg.dstBase.toNat + (n + 1)) by omega)]

end Sys2Proof.Machine
end

