-- ==== Sys2Proof/Laws/PerInstr.lean ====
section
/-!
SUPPORT. Statements about every instruction, one lemma per constructor.
-/

namespace Sys2Proof.Laws.EncodesOwnRow

/-- The word a well-formed instruction is encoded as selects the row of the tables of R108 and R115 with its mnemonic. -/
def Statement (i : Instr) : Prop :=
  i.wf = true → ∃ r ∈ htRows ++ uopRows, r.mnemonic = i.mnemonic ∧ r.selectsWord (encode i) = true

/-- A mask over the upper five bits drops the data field of a host-transaction word. -/
theorem htWord_and_high (b : Bool) (n : SlotNo) (v : Word) (hi : BitVec 5) :
    htWord b n v &&& (hi ++ 0#32) = ((BitVec.ofBool b ++ n) &&& hi) ++ 0#32 := by
  unfold htWord
  rw [BitVec.and_append, BitVec.and_zero]

/-- A row whose mask and pattern have no data bit is selected by the upper five bits alone. -/
theorem selects_of_high {r : Row} {b : Bool} {n : SlotNo} (v : Word) (mask pat : BitVec 5)
    (hm : BitVec.ofNat 37 r.mask = mask ++ 0#32) (hp : BitVec.ofNat 37 r.pattern = pat ++ 0#32) (hf : r.format = .ht)
    (h : (BitVec.ofBool b ++ n) &&& mask = pat) : r.selectsWord (.ht (htWord b n v)) = true := by
  simp only [Row.selectsWord, Row.selects, hf, hm, hp, htWord_and_high, h, beq_self_eq_true, Bool.and_self]

theorem regrd (n : SlotNo) : Statement (.regrd n) := fun _ =>
  ⟨⟨"REGRD", .ht, 0x0000000000, 0x1000000000⟩, by decide, rfl,
    selects_of_high 0#32 0x10#5 0x00#5 (by decide) (by decide) rfl (by revert n; decide)⟩

theorem start : Statement .start := fun _ => by decide

theorem ctrlnop : Statement .ctrlnop := fun _ => by decide

theorem wrignStatus (v : Word) : Statement (.wrignStatus v) := fun _ =>
  ⟨⟨"WRIGN.STATUS", .ht, 0x1100000000, 0x1F00000000⟩, by decide, rfl,
    selects_of_high v 0x1F#5 0x11#5 (by decide) (by decide) rfl (by decide)⟩

theorem wrSrcBase (v : Word) : Statement (.wrSrcBase v) := fun _ =>
  ⟨⟨"WR_SRC_BASE", .ht, 0x1200000000, 0x1F00000000⟩, by decide, rfl,
    selects_of_high v 0x1F#5 0x12#5 (by decide) (by decide) rfl (by decide)⟩

theorem wrSrcStride (v : Word) : Statement (.wrSrcStride v) := fun _ =>
  ⟨⟨"WR_SRC_STRIDE", .ht, 0x1300000000, 0x1F00000000⟩, by decide, rfl,
    selects_of_high v 0x1F#5 0x13#5 (by decide) (by decide) rfl (by decide)⟩

theorem wrSrcLen (v : Word) : Statement (.wrSrcLen v) := fun _ =>
  ⟨⟨"WR_SRC_LEN", .ht, 0x1400000000, 0x1F00000000⟩, by decide, rfl,
    selects_of_high v 0x1F#5 0x14#5 (by decide) (by decide) rfl (by decide)⟩

theorem wrDstBase (v : Word) : Statement (.wrDstBase v) := fun _ =>
  ⟨⟨"WR_DST_BASE", .ht, 0x1500000000, 0x1F00000000⟩, by decide, rfl,
    selects_of_high v 0x1F#5 0x15#5 (by decide) (by decide) rfl (by decide)⟩

theorem wrDstLen (v : Word) : Statement (.wrDstLen v) := fun _ =>
  ⟨⟨"WR_DST_LEN", .ht, 0x1600000000, 0x1F00000000⟩, by decide, rfl,
    selects_of_high v 0x1F#5 0x16#5 (by decide) (by decide) rfl (by decide)⟩

theorem wrWidth (v : Word) : Statement (.wrWidth v) := fun _ =>
  ⟨⟨"WR_WIDTH", .ht, 0x1700000000, 0x1F00000000⟩, by decide, rfl,
    selects_of_high v 0x1F#5 0x17#5 (by decide) (by decide) rfl (by decide)⟩

theorem wrHeight (v : Word) : Statement (.wrHeight v) := fun _ =>
  ⟨⟨"WR_HEIGHT", .ht, 0x1800000000, 0x1F00000000⟩, by decide, rfl,
    selects_of_high v 0x1F#5 0x18#5 (by decide) (by decide) rfl (by decide)⟩

theorem wrignLayout (v : Word) : Statement (.wrignLayout v) := fun _ =>
  ⟨⟨"WRIGN.LAYOUT", .ht, 0x1900000000, 0x1F00000000⟩, by decide, rfl,
    selects_of_high v 0x1F#5 0x19#5 (by decide) (by decide) rfl (by decide)⟩

theorem wrignR10 (n : SlotNo) (v : Word) : Statement (.wrignR10 n v) := fun h =>
  ⟨⟨"WRIGN.R10", .ht, 0x1A00000000, 0x1E00000000⟩, by decide, rfl,
    selects_of_high v 0x1E#5 0x1A#5 (by decide) (by decide) rfl
      (by simp only [Instr.wf] at h; revert h; revert n; decide)⟩

theorem wrignR12 (n : SlotNo) (v : Word) : Statement (.wrignR12 n v) := fun h =>
  ⟨⟨"WRIGN.R12", .ht, 0x1C00000000, 0x1C00000000⟩, by decide, rfl,
    selects_of_high v 0x1C#5 0x1C#5 (by decide) (by decide) rfl
      (by simp only [Instr.wf] at h; revert h; revert n; decide)⟩

theorem idle : Statement .idle := fun _ => by decide

theorem check : Statement .check := fun _ => by decide

theorem fetch4 : Statement .fetch4 := fun _ => by decide

theorem unpack : Statement .unpack := fun _ => by decide

theorem center : Statement .center := fun _ => by decide

theorem rterm : Statement .rterm := fun _ => by decide

theorem gterm : Statement .gterm := fun _ => by decide

theorem bterm : Statement .bterm := fun _ => by decide

theorem yscale : Statement .yscale := fun _ => by decide

theorem rsum : Statement .rsum := fun _ => by decide

theorem gsum : Statement .gsum := fun _ => by decide

theorem bsum : Statement .bsum := fun _ => by decide

theorem satr : Statement .satr := fun _ => by decide

theorem satg : Statement .satg := fun _ => by decide

theorem satb : Statement .satb := fun _ => by decide

theorem pack : Statement .pack := fun _ => by decide

theorem store8 : Statement .store8 := fun _ => by decide

theorem advance : Statement .advance := fun _ => by decide

theorem nextrow : Statement .nextrow := fun _ => by decide

theorem finish : Statement .finish := fun _ => by decide

end Sys2Proof.Laws.EncodesOwnRow
end

