-- ==== Sys2Proof/Tests/Slice0.lean ====
section
/-!
SUPPORT. The model's own tests: ill-formed terms refused, words written out from the encoding tables, one-step checks against
95_test_vectors.md (the row is named in each comment), and a concrete state for the hypotheses of every obligation.
-/

namespace Sys2Proof.Tests

open Sys2Proof.Machine Sys2Proof.Safety

/-! Helpers -/

/-- A field of the next state, none where the machine stops. -/
def after {α : Type} (o : Result) (f : State → α) : Option α :=
  match o with
  | .next t => some (f t)
  | _ => none

/-- Seven configuration registers from numbers. -/
def regs (sb st sl db dl w h : Nat) : HostRegs :=
  { srcBase := BitVec.ofNat 32 sb, srcStride := BitVec.ofNat 32 st, srcLen := BitVec.ofNat 32 sl, dstBase := BitVec.ofNat 32 db,
    dstLen := BitVec.ofNat 32 dl, width := BitVec.ofNat 32 w, height := BitVec.ofNat 32 h }

/-- Program P1: one group at 0x1000. -/
def cfgP1 : HostRegs := regs 0x1000 4 4 0x2000 8 2 1

/-- Program P2: two rows of one group, four bytes of padding a row. -/
def cfgP2 : HostRegs := regs 0x1000 8 16 0x2000 16 2 2

/-- An idle block with a configuration. -/
def idleWith (c : HostRegs) : State := { State.reset with cfg := c }

/-- A block in a run with a configuration. -/
def busyWith (c : HostRegs) : State := { State.reset with cfg := c, status := statusStarted }

/-- Rows M18 and M19: Y0 = 81, Y1 = 210, U = 90, V = 240, with the registers CENTER to BTERM leave. -/
def sampleDp : Datapath :=
  { Datapath.afterReset with
    g0 := 0x51#8, g1 := 0x5A#8, g2 := 0xD2#8, g3 := 0xF0#8
    y0 := 81#8, y1 := 210#8, u := 90#8, v := 240#8
    su := BitVec.ofInt 8 (-38), sv := 112#8
    rt := BitVec.ofInt 32 187959312, gt := BitVec.ofInt 32 (-79375082), bt := BitVec.ofInt 32 (-79884700)
    ys := BitVec.ofInt 32 79335230 }

/-- A block with those samples, in lane `k`. -/
def sample (k : BitVec 1) : State := { State.reset with dp := sampleDp, seq := { SeqRegs.afterReset with k := k } }

/-- The datapath of program P1, where every stage of both lanes holds the same grey. -/
def greyDp : Datapath :=
  { g0 := 0x80#8, g1 := 0x80#8, g2 := 0x80#8, g3 := 0x80#8, y0 := 128#8, y1 := 128#8, u := 128#8, v := 128#8
    su := 0#8, sv := 0#8, rt := 524288#32, gt := 524288#32, bt := 524288#32, ys := 136700704#32
    rs := 130#32, gs := 130#32, bs := 130#32, r8 := 130#8, g8 := 130#8, b8 := 130#8
    p0 := 0x82#8, p1 := 0x82#8, p2 := 0x82#8, p3 := 0xFF#8, p4 := 0x82#8, p5 := 0x82#8, p6 := 0x82#8, p7 := 0xFF#8 }

/-- The memory of program P1 after a run. -/
def greyMem : Memory :=
  [(0x1000, 0x80#8), (0x1001, 0x80#8), (0x1002, 0x80#8), (0x1003, 0x80#8), (0x2000, 0x82#8), (0x2001, 0x82#8),
   (0x2002, 0x82#8), (0x2003, 0xFF#8), (0x2004, 0x82#8), (0x2005, 0x82#8), (0x2006, 0x82#8), (0x2007, 0xFF#8)]

/-- A second run of program P1 over its own result, about to take the operation `c`. -/
def greyRun (c : PhaseCode) (k : BitVec 1) (col row : Word) : State :=
  { State.reset with
    cfg := cfgP1, status := statusStarted, dp := greyDp, mem := greyMem, launchMem := greyMem
    seq := { phase := c, k := k, col := col, row := row, srow := 0x1000#32, drow := 0x2000#32, scur := 0x1000#32, dcur := 0x2000#32 } }

/-- `START` as the next event, CONV after it. -/
def startNext (s : State) : State := { s with agenda := [.command 0x1000000001#37] }

/-! Well-formedness -/

/-- R115: `WRIGN.R10` and `WRIGN.R12` admit their own slots only. -/
theorem test_wf_refuses_slots :
    (Instr.wrignR10 9#4 0#32).wf = false ∧ (Instr.wrignR10 12#4 0#32).wf = false ∧ (Instr.wrignR12 11#4 0#32).wf = false ∧
    (Instr.wrignR12 5#4 0#32).wf = false := by decide

/-- R113: illegal build-time parameters are refused. -/
theorem test_wf_refuses_parameters :
    LayoutParams.wf ⟨2, 0, 2⟩ = false ∧ LayoutParams.wf ⟨0, 2, 2⟩ = false ∧ LayoutParams.wf ⟨0, 0, 1⟩ = false ∧
    buildLayout ⟨0, 0, 1⟩ = none ∧ buildLayout ⟨1, 0, 0⟩ = some ⟨.uyvy, .bgra⟩ := by decide

/-! Decoding: words written out from R106, R108 and R115 -/

/-- H1 of 95_test_vectors.md, bit by bit: rw 0, n 0001, data 0. -/
theorem test_decode_regrd : decode (.ht 0b0000100000000000000000000000000000000#37) = .ok (.regrd 1#4) := rfl
/-- H16: rw 1, n 0000, bit 0 set, bit 31 ignored. -/
theorem test_decode_start : decode (.ht 0b1000010000000000000000000000000000001#37) = .ok .start := rfl
/-- H11. -/
theorem test_decode_ctrlnop : decode (.ht 0x10FFFFFFFE#37) = .ok .ctrlnop := rfl
/-- H5. -/
theorem test_decode_wrignStatus : decode (.ht 0x11FFFFFFFF#37) = .ok (.wrignStatus 0xFFFFFFFF#32) := rfl
/-- P1: rw 1, n 0010, data 0x1000. -/
theorem test_decode_wrSrcBase : decode (.ht 0b1001000000000000000000001000000000000#37) = .ok (.wrSrcBase 0x1000#32) := rfl
/-- P3. -/
theorem test_decode_wrSrcStride : decode (.ht 0x130000000A#37) = .ok (.wrSrcStride 10#32) := rfl
/-- P3. -/
theorem test_decode_wrSrcLen : decode (.ht 0x1400000014#37) = .ok (.wrSrcLen 20#32) := rfl
/-- P3. -/
theorem test_decode_wrDstBase : decode (.ht 0x1500002003#37) = .ok (.wrDstBase 0x2003#32) := rfl
/-- P3. -/
theorem test_decode_wrDstLen : decode (.ht 0x1600000028#37) = .ok (.wrDstLen 40#32) := rfl
/-- H3. -/
theorem test_decode_wrWidth : decode (.ht 0x1700000002#37) = .ok (.wrWidth 2#32) := rfl
/-- P1. -/
theorem test_decode_wrHeight : decode (.ht 0x1800000001#37) = .ok (.wrHeight 1#32) := rfl
/-- H6. -/
theorem test_decode_wrignLayout : decode (.ht 0x1900000000#37) = .ok (.wrignLayout 0#32) := rfl
/-- H9, and slot 11. -/
theorem test_decode_wrignR10 :
    decode (.ht 0x1A00000001#37) = .ok (.wrignR10 10#4 1#32) ∧ decode (.ht 0x1B00000000#37) = .ok (.wrignR10 11#4 0#32) :=
  ⟨rfl, rfl⟩
/-- H7, and slot 15. -/
theorem test_decode_wrignR12 :
    decode (.ht 0x1C12345678#37) = .ok (.wrignR12 12#4 0x12345678#32) ∧
    decode (.ht 0x1FFFFFFFFF#37) = .ok (.wrignR12 15#4 0xFFFFFFFF#32) := ⟨rfl, rfl⟩

/-- R108: the codes of the sequencer and of the fetch. -/
theorem test_decode_sequencer :
    decode (.uop 0b00000#5) = .ok .idle ∧ decode (.uop 0b00001#5) = .ok .check ∧ decode (.uop 0b00010#5) = .ok .fetch4 ∧
    decode (.uop 0b00011#5) = .ok .unpack ∧ decode (.uop 0b10001#5) = .ok .advance ∧
    decode (.uop 0b10010#5) = .ok .nextrow ∧ decode (.uop 0b10011#5) = .ok .finish := ⟨rfl, rfl, rfl, rfl, rfl, rfl, rfl⟩
/-- R108: the codes of the colour matrix. -/
theorem test_decode_matrix :
    decode (.uop 0b00100#5) = .ok .center ∧ decode (.uop 0b00101#5) = .ok .rterm ∧ decode (.uop 0b00110#5) = .ok .gterm ∧
    decode (.uop 0b00111#5) = .ok .bterm ∧ decode (.uop 0b01000#5) = .ok .yscale ∧ decode (.uop 0b01001#5) = .ok .rsum ∧
    decode (.uop 0b01010#5) = .ok .gsum ∧ decode (.uop 0b01011#5) = .ok .bsum := ⟨rfl, rfl, rfl, rfl, rfl, rfl, rfl, rfl⟩
/-- R108: the codes of saturation, packing and the store. -/
theorem test_decode_output :
    decode (.uop 0b01100#5) = .ok .satr ∧ decode (.uop 0b01101#5) = .ok .satg ∧ decode (.uop 0b01110#5) = .ok .satb ∧
    decode (.uop 0b01111#5) = .ok .pack ∧ decode (.uop 0b10000#5) = .ok .store8 := ⟨rfl, rfl, rfl, rfl, rfl⟩
/-- R111: reserved codes, the first and the last. -/
theorem test_decode_reserved :
    decode (.uop 0b10100#5) = .error (.reservedPhase 0b10100#5) ∧
    decode (.uop 0b11111#5) = .error (.reservedPhase 0b11111#5) := ⟨rfl, rfl⟩

/-- The table's numbering: 40 bits for a host command, 8 for a code. -/
theorem test_decodeTableWord :
    decodeTableWord 40 0x1000000001 = some .start ∧ decodeTableWord 40 0 = some (.regrd 0#4) ∧
    decodeTableWord 8 0x13 = some .finish ∧ decodeTableWord 8 0x14 = none ∧ decodeTableWord 40 0x2000000000 = none := by
  decide

/-- A host command placed after reset is the next step: H3. -/
theorem test_withFetchWord_command :
    after (step (State.reset.withFetchWord 40 0x1700000002)) (·.cfg.width) = some 2#32 := by decide
/-- A code placed after reset is the next step: FINISH sets DONE. -/
theorem test_withFetchWord_code :
    after (step (State.reset.withFetchWord 8 0x13)) (fun t => (t.status.done, t.seq.phase)) = some (true, 0#5) := by decide

/-! Host commands -/

/-- R23, 95_test_vectors.md section 4 item 6: the words of `STATUS`. -/
theorem test_regrd_status :
    after (exec (.regrd 1#4) State.reset) (·.rdata) = some 0x00000000#32 ∧
    after (exec (.regrd 1#4) (busyWith cfgP1)) (·.rdata) = some 0x00000001#32 ∧
    after (exec (.regrd 1#4) (State.reset.setStatus (statusFinished statusStarted))) (·.rdata) = some 0x00000002#32 ∧
    after (exec (.regrd 1#4) (State.reset.setStatus (statusFaulted .dim))) (·.rdata) = some 0x00000014#32 ∧
    after (exec (.regrd 1#4) (State.reset.setStatus (statusFaulted .overlap))) (·.rdata) = some 0x00000074#32 := by decide
/-- Section 2.5: `LAYOUT` of six instantiations; H4, H8, H12. -/
theorem test_regrd_others :
    after (exec (.regrd 9#4) State.reset) (·.rdata) = some 0x8#32 ∧
    after (exec (.regrd 9#4) (State.resetOf ⟨.yvyu, .rgba⟩)) (·.rdata) = some 0xA#32 ∧
    after (exec (.regrd 9#4) (State.resetOf ⟨.uyvy, .rgba⟩)) (·.rdata) = some 0x9#32 ∧
    after (exec (.regrd 9#4) (State.resetOf ⟨.vyuy, .rgba⟩)) (·.rdata) = some 0xB#32 ∧
    after (exec (.regrd 9#4) (State.resetOf ⟨.yuyv, .bgra⟩)) (·.rdata) = some 0x0#32 ∧
    after (exec (.regrd 9#4) (State.resetOf ⟨.vyuy, .bgra⟩)) (·.rdata) = some 0x3#32 ∧
    after (exec (.regrd 7#4) (idleWith cfgP1)) (·.rdata) = some 2#32 ∧
    after (exec (.regrd 0#4) (busyWith cfgP1)) (·.rdata) = some 0#32 ∧
    after (exec (.regrd 12#4) (busyWith cfgP1)) (·.rdata) = some 0#32 := by decide
/-- H13. -/
theorem test_start_idle :
    after (exec .start (State.reset.setStatus (statusFaulted .dim))) (fun t => (statusWord t.status, t.seq.phase)) =
      some (1#32, 1#5) := by decide
/-- H15: START while busy leaves `PHASE`. -/
theorem test_start_busy : after (exec .start (greyRun 0x0B#5 1#1 0#32 0#32)) (·.seq.phase) = some 0x0B#5 := by decide
/-- H10, H5, H6, H9, H7. -/
theorem test_ignored_writes :
    after (exec .ctrlnop (idleWith cfgP2)) id = some (idleWith cfgP2) ∧
    after (exec (.wrignStatus 0xFFFFFFFF#32) State.reset) (statusWord ·.status) = some 0#32 ∧
    after (exec (.wrignLayout 0#32) State.reset) (layoutWord ·.layout) = some 8#32 ∧
    after (exec (.wrignR10 10#4 1#32) (idleWith cfgP2)) id = some (idleWith cfgP2) ∧
    after (exec (.wrignR12 12#4 0x12345678#32) (idleWith cfgP2)) id = some (idleWith cfgP2) := by decide
/-- H3 for each of the seven registers. -/
theorem test_config_writes :
    after (exec (.wrSrcBase 0x1001#32) State.reset) (·.cfg) = some (regs 0x1001 0 0 0 0 0 0) ∧
    after (exec (.wrSrcStride 10#32) State.reset) (·.cfg) = some (regs 0 10 0 0 0 0 0) ∧
    after (exec (.wrSrcLen 20#32) State.reset) (·.cfg) = some (regs 0 0 20 0 0 0 0) ∧
    after (exec (.wrDstBase 0x2003#32) State.reset) (·.cfg) = some (regs 0 0 0 0x2003 0 0 0) ∧
    after (exec (.wrDstLen 40#32) State.reset) (·.cfg) = some (regs 0 0 0 0 40 0 0) ∧
    after (exec (.wrWidth 3#32) State.reset) (·.cfg) = some (regs 0 0 0 0 0 3 0) ∧
    after (exec (.wrHeight 1#32) State.reset) (·.cfg) = some (regs 0 0 0 0 0 0 1) := by decide
/-- H14: the write is lost while busy. -/
theorem test_config_write_busy : after (exec (.wrWidth 4#32) (busyWith cfgP1)) (·.cfg.width) = some 2#32 := by decide

/-! The configuration check: the 22 rows of section 2.2 -/

/-- One row: the registers, and the fault code or 0. -/
def checkRows : List (HostRegs × Nat) :=
  [ (regs 0 0 0 0 0 0 0, 1), (regs 0x1000 8 0x10 0x2000 0x10 2 0, 1), (regs 0x1000 0 0 0x2000 0 0 2, 1),
    (regs 0x1000 8 0x10 0x2000 0x10 3 1, 2), (regs 0x1000 1 0x10 0x2000 0x10 1 1, 2),
    (regs 0x1000 7 0x40 0x2000 0x40 4 2, 3), (regs 0x1000 8 0x10 0x2000 0x20 4 2, 0),
    (regs 0x1000 8 0xF 0x2000 0x20 4 2, 4), (regs 0x1000 8 0x10 0x2000 0x1F 4 2, 5),
    (regs 0x1000 8 0xF 0x2000 0x1F 4 2, 4), (regs 0xFFFFFFF8 8 0x10 0x2000 0x20 4 2, 6) ] ++
  [ (regs 0xFFFFFFF0 8 0x10 0x2000 0x20 4 2, 0), (regs 0x1000 8 0x10 0xFFFFFFF0 0x20 4 2, 6),
    (regs 0x1000 8 0x10 0xFFFFFFE0 0x20 4 2, 0), (regs 0x1000 8 0x10 0x1000 0x20 4 2, 7),
    (regs 0x1000 8 0x10 0x100F 0x20 4 2, 7), (regs 0x1000 8 0x10 0x1010 0x20 4 2, 0),
    (regs 0x201F 8 0x10 0x2000 0x20 4 2, 7), (regs 0x2020 8 0x10 0x2000 0x20 4 2, 0),
    (regs 0 0x20000 0xFFFFFFFF 0 0xFFFFFFFF 0x10000 0x4000, 5), (regs 0 0xFFFFFFFF 0xFFFFFFFF 0 0xFFFFFFFF 2 2, 4),
    (regs 0x1000 8 0x1000 0x2000 0xFFFFFFFF 4 2, 0) ]

/-- F1 to F22: `STATUS` and `PHASE` after `CHECK`; the configuration stays. -/
theorem test_check_table :
    (checkRows.all fun r => after (exec .check ((busyWith r.1).goto 1#5)) (fun t => (statusWord t.status, t.seq.phase, t.cfg)) ==
      some (if r.2 = 0 then (1#32, 2#5, r.1) else (BitVec.ofNat 32 (16 * r.2 + 4), 0#5, r.1))) = true := by decide
/-- Section 2.6, first row. -/
theorem test_check_cursors :
    after (exec .check ((busyWith (regs 0x1001 10 20 0x2003 40 4 2)).goto 1#5)) (·.seq) =
      some { phase := 2#5, k := 0#1, col := 0#32, row := 0#32, srow := 0x1001#32, drow := 0x2003#32, scur := 0x1001#32,
             dcur := 0x2003#32 } := by decide

/-! Fetch and unpack -/

/-- Section 2.5: the group's bytes in address order, and `K`. -/
theorem test_fetch4 :
    after (exec .fetch4 { State.reset with
        mem := [(0x1001, 0x51#8), (0x1002, 0x5A#8), (0x1003, 0xD2#8), (0x1004, 0xF0#8)]
        seq := { SeqRegs.afterReset with scur := 0x1001#32, k := 1#1 } }) (fun t => (t.dp.group, t.seq.k, t.seq.phase)) =
      some (⟨0x51#8, 0x5A#8, 0xD2#8, 0xF0#8⟩, 0#1, 3#5) := by decide
/-- R13: addresses wrap at the top. -/
theorem test_fetch4_wraps :
    after (exec .fetch4 { State.reset with
        mem := [(0, 3#8), (1, 4#8), (0xFFFFFFFE, 1#8), (0xFFFFFFFF, 2#8)]
        seq := { SeqRegs.afterReset with scur := 0xFFFFFFFE#32 } }) (·.dp.group) = some ⟨1#8, 2#8, 3#8, 4#8⟩ := by decide
/-- Section 2.5: the four source orders give the same samples. -/
theorem test_unpack_orders :
    unpackGroup .yuyv ⟨0x51#8, 0x5A#8, 0xD2#8, 0xF0#8⟩ = ⟨81#8, 210#8, 90#8, 240#8⟩ ∧
    unpackGroup .yvyu ⟨0x51#8, 0xF0#8, 0xD2#8, 0x5A#8⟩ = ⟨81#8, 210#8, 90#8, 240#8⟩ ∧
    unpackGroup .uyvy ⟨0x5A#8, 0x51#8, 0xF0#8, 0xD2#8⟩ = ⟨81#8, 210#8, 90#8, 240#8⟩ ∧
    unpackGroup .vyuy ⟨0xF0#8, 0x51#8, 0x5A#8, 0xD2#8⟩ = ⟨81#8, 210#8, 90#8, 240#8⟩ := by decide
/-- Section 2.5: the layout mix-up is visible. -/
theorem test_unpack_uyvy :
    after (exec .unpack { State.resetOf ⟨.uyvy, .rgba⟩ with dp := sampleDp }) (fun t => (samplesOf t.dp, t.seq.phase)) =
      some (⟨90#8, 240#8, 81#8, 210#8⟩, 4#5) := by decide

/-! The colour matrix: rows M18, M19, M35, M36 of section 2.3 -/

theorem test_center :
    after (exec .center (sample 0#1)) (fun t => (t.dp.su.toInt, t.dp.sv.toInt)) = some (-38, 112) := by decide
/-- M11: chroma 0 is -128. -/
theorem test_center_lowest :
    after (exec .center { State.reset with dp := { sampleDp with u := 0#8, v := 255#8 } })
      (fun t => (t.dp.su.toInt, t.dp.sv.toInt)) = some (-128, 127) := by decide
theorem test_rterm : after (exec .rterm (sample 0#1)) (·.dp.rt.toInt) = some 187959312 := by decide
theorem test_gterm : after (exec .gterm (sample 0#1)) (·.dp.gt.toInt) = some (-79375082) := by decide
theorem test_bterm : after (exec .bterm (sample 0#1)) (·.dp.bt.toInt) = some (-79884700) := by decide
/-- M18 in lane 0, M19 in lane 1. -/
theorem test_yscale :
    after (exec .yscale (sample 0#1)) (·.dp.ys.toInt) = some 79335230 ∧
    after (exec .yscale (sample 1#1)) (·.dp.ys.toInt) = some 236785148 := by decide
/-- M4, M5: the floor at 16; M9: no clamp at 235. -/
theorem test_yscale_floor :
    scaledLuma 15#8 = 0 ∧ scaledLuma 16#8 = 0 ∧ scaledLuma 17#8 = 1220542 ∧ scaledLuma 255#8 = 291709538 := by decide
theorem test_rsum : after (exec .rsum (sample 0#1)) (·.dp.rs.toInt) = some 254 := by decide
/-- M18: -39852 shifts to -1. -/
theorem test_gsum : after (exec .gsum (sample 0#1)) (·.dp.gs.toInt) = some (-1) := by decide
theorem test_bsum : after (exec .bsum (sample 0#1)) (·.dp.bs.toInt) = some (-1) := by decide
/-- M35: an exact multiple; M36: the shift rounds down. -/
theorem test_shift : asr20 (-51380224) = -49 ∧ asr20 (-4222) = -1 ∧ asr20 8349 = 0 := by decide
/-- M10 to M13, M18, M19, M22, M33: whole pixels. -/
theorem test_csc :
    csc 255#8 255#8 255#8 = ⟨255#8, 125#8, 255#8⟩ ∧ csc 0#8 0#8 0#8 = ⟨0#8, 154#8, 0#8⟩ ∧
    csc 255#8 0#8 0#8 = ⟨74#8, 255#8, 20#8⟩ ∧ csc 0#8 255#8 255#8 = ⟨203#8, 0#8, 255#8⟩ ∧
    csc 81#8 90#8 240#8 = ⟨254#8, 0#8, 0#8⟩ ∧ csc 210#8 90#8 240#8 = ⟨255#8, 150#8, 149#8⟩ ∧
    csc 145#8 54#8 34#8 = ⟨0#8, 255#8, 1#8⟩ ∧ csc 235#8 0#8 128#8 = ⟨255#8, 255#8, 0#8⟩ := by decide

/-! Saturation -/

/-- Section 2.4. -/
theorem test_sat8_table :
    ([-2147483648, -258, -1, 0, 1, 127, 128, 254, 255, 256, 534, 2147483647].map sat8) =
      [0#8, 0#8, 0#8, 0#8, 1#8, 127#8, 128#8, 254#8, 255#8, 255#8, 255#8, 255#8] := by decide
/-- M19: 405, 150, 149. -/
theorem test_sat_operations :
    let d := { sampleDp with rs := 405#32, gs := BitVec.ofInt 32 (-1), bs := 149#32 }
    after (exec .satr (State.reset.setDp d)) (·.dp.r8) = some 255#8 ∧
    after (exec .satg (State.reset.setDp d)) (·.dp.g8) = some 0#8 ∧
    after (exec .satb (State.reset.setDp d)) (·.dp.b8) = some 149#8 := by decide

/-! Pack and store -/

/-- Section 2.5: the second pixel in R,G,B,A order. -/
theorem test_pack_second :
    after (exec .pack { sample 1#1 with dp := { sampleDp with r8 := 0xFF#8, g8 := 0x96#8, b8 := 0x95#8 } })
      (fun t => (secondPixel t.dp, t.seq.phase)) = some (⟨0xFF#8, 0x96#8, 0x95#8, 0xFF#8⟩, 0x10#5) := by decide
/-- Section 2.5: the first pixel in B,G,R,A order. -/
theorem test_pack_first_bgra :
    after (exec .pack { State.resetOf ⟨.yuyv, .bgra⟩ with dp := { sampleDp with r8 := 0xFE#8, g8 := 0#8, b8 := 0#8 } })
      (fun t => (firstPixel t.dp, t.seq.k, t.seq.phase)) = some (⟨0#8, 0#8, 0xFE#8, 0xFF#8⟩, 1#1, 8#5) := by decide
/-- P1, step 24. -/
theorem test_store8 :
    after (exec .store8 { greyRun 0x10#5 1#1 0#32 0#32 with mem := greyMem.take 4 }) (fun t => (t.mem, t.seq.phase)) =
      some (greyMem, 0x11#5) := by decide
/-- R13: the store wraps at the top; R92: it does not happen where memory does not answer. -/
theorem test_store8_edges :
    after (exec .store8 { greyRun 0x10#5 1#1 0#32 0#32 with
        mem := [], seq := { SeqRegs.afterReset with dcur := 0xFFFFFFFC#32 } }) (·.mem) =
      some [(0, 0x82#8), (1, 0x82#8), (2, 0x82#8), (3, 0xFF#8), (0xFFFFFFFC, 0x82#8), (0xFFFFFFFD, 0x82#8),
        (0xFFFFFFFE, 0x82#8), (0xFFFFFFFF, 0xFF#8)] ∧
    after (exec .store8 { greyRun 0x10#5 1#1 0#32 0#32 with platform := [⟨0x2007, 1, .absent⟩] }) id = none := by decide

/-! The sequencer: section 2.6 -/

/-- The cursors of program P3 at the second group of row 0. -/
def rowP3 : State :=
  { busyWith (regs 0x1001 10 20 0x2003 40 4 2) with
    seq := { phase := 0x11#5, k := 1#1, col := 1#32, row := 0#32, srow := 0x1001#32, drow := 0x2003#32, scur := 0x1005#32,
             dcur := 0x200B#32 } }

theorem test_advance :
    after (exec .advance rowP3) (·.seq) = some { rowP3.seq with col := 2#32, scur := 0x1009#32, dcur := 0x2013#32, phase := 0x12#5 } := by
  decide
theorem test_nextrow :
    after (exec .nextrow rowP3) (·.seq) = some { rowP3.seq with
      row := 1#32, col := 0#32, srow := 0x100B#32, scur := 0x100B#32, drow := 0x2013#32, dcur := 0x2013#32, phase := 0x02#5 } := by
  decide
/-- The last row of program P3. -/
theorem test_nextrow_last :
    after (exec .nextrow { rowP3 with seq := { rowP3.seq with row := 1#32 } }) (fun t => (t.seq.row, t.seq.phase)) =
      some (2#32, 0x13#5) := by decide
/-- P1, step 27. -/
theorem test_finish :
    after (exec .finish (greyRun 0x13#5 1#1 0#32 1#32)) (fun t => (statusWord t.status, t.seq.phase)) = some (2#32, 0#5) := by decide
theorem test_idle : after (exec .idle (idleWith cfgP2)) id = some (idleWith cfgP2) := by decide

/-! HOST's memory accesses and reset -/

/-- R87: padding of a run may be written, its payload may not. -/
theorem test_hostWrite :
    after (hostWrite 0x1004#32 7#8 (busyWith cfgP2)) (·.mem) = some [(0x1004, 7#8)] ∧
    after (hostWrite 0x1003#32 7#8 (busyWith cfgP2)) id = none ∧ after (hostRead 0x200F#32 (busyWith cfgP2)) id = none ∧
    after (hostRead 0x2010#32 (busyWith cfgP2)) (·.mdata) = some 0#8 := by decide
/-- R256: `START` puts HOST under its duties, `FINISH` and reset do not end them, a `STATUS` read of a busy block does not, one
that shows `BUSY = 0` does. -/
theorem test_duties :
    after (exec .start (idleWith cfgP1)) (·.owed) = some [cfgP1] ∧
    after (exec .finish { greyRun 0x13#5 1#1 0#32 1#32 with owed := [cfgP1] }) (fun t => after (hostRead 0x2007#32 t) id) = some none ∧
    after (step { idleWith cfgP1 with owed := [cfgP2], agenda := [.reset] }) (·.owed) = some [cfgP2] ∧
    after (exec (.regrd 1#4) { busyWith cfgP1 with owed := [cfgP1] }) (·.owed) = some [cfgP1] ∧
    after (exec (.regrd 1#4) { idleWith cfgP1 with owed := [cfgP1], mem := greyMem })
      (fun t => after (hostRead 0x2007#32 t) (·.mdata)) = some (some 0xFF#8) := by decide
/-- R250: reset of an idle block. -/
theorem test_reset_idle :
    after (step { idleWith cfgP2 with agenda := [.reset], mem := greyMem }) (fun t => (t.cfg, t.mem)) =
      some (HostRegs.zero, greyMem) := by decide

/-! Hypotheses that can be met: one named theorem for each obligation that has any -/

/-- No fault condition holds of program P1's configuration. -/
theorem legal_P1 : ∀ f, ¬ FaultHolds cfgP1 f := by
  intro f
  cases f <;> simp only [FaultHolds] <;> decide

/-- No fault condition holds of program P2's configuration. -/
theorem legal_P2 : ∀ f, ¬ FaultHolds cfgP2 f := by
  intro f
  cases f <;> simp only [FaultHolds] <;> decide

theorem witness_DecodeEncodeAgree :
    (Instr.wrignR10 10#4 0xFFFFFFFF#32).wf = true ∧ (Instr.wrignR10 11#4 0#32).wf = true ∧
    (Instr.wrignR12 12#4 1#32).wf = true ∧ (Instr.wrignR12 15#4 0#32).wf = true ∧ (Instr.regrd 15#4).wf = true := by decide

theorem witness_ReservedPhaseIsStuck :
    (nextEvent (greyRun 0x14#5 0#1 0#32 0#32) = .conv ∧ 0x14 ≤ (greyRun 0x14#5 0#1 0#32 0#32).seq.phase.toNat) ∧
    (nextEvent (greyRun 0x1F#5 0#1 0#32 0#32) = .conv ∧ 0x14 ≤ (greyRun 0x1F#5 0#1 0#32 0#32).seq.phase.toNat) ∧
    (nextEvent (greyRun 0x13#5 0#1 0#32 0#32) = .conv ∧ (greyRun 0x13#5 0#1 0#32 0#32).seq.phase.toNat < 0x14) := by decide

theorem witness_StepRunsDecodedInstruction :
    (nextEvent (startNext (idleWith cfgP1)) = .command 0x1000000001#37 ∧ decode (.ht 0x1000000001#37) = .ok .start) ∧
    (nextEvent (greyRun 0x10#5 1#1 0#32 0#32) = .conv ∧
      decode (.uop (greyRun 0x10#5 1#1 0#32 0#32).seq.phase) = .ok .store8) := ⟨⟨rfl, rfl⟩, ⟨rfl, rfl⟩⟩

theorem witness_RegrdReturnsRegister : 10 ≤ (10#4 : SlotNo).toNat ∧ 10 ≤ (15#4 : SlotNo).toNat := by decide

/-- For the statements about an idle and a busy block (START, the configuration writes). -/
theorem witness_idle_and_busy :
    (idleWith cfgP1).status.busy = false ∧ (busyWith cfgP1).status.busy = true := by decide

theorem witness_ConfigWriteReadsBack :
    (idleWith cfgP1).status.busy = false ∧ 2 ≤ (2#4 : SlotNo).toNat ∧ (2#4 : SlotNo).toNat ≤ 8 ∧ 2 ≤ (8#4 : SlotNo).toNat ∧
    (8#4 : SlotNo).toNat ≤ 8 := by decide

/-- F1 and F16: the first and the last cause. -/
theorem witness_CheckReportsLowestFault :
    (FaultHolds (regs 0 0 0 0 0 0 0) .dim ∧
      ∀ g, (faultCode g).toNat < (faultCode .dim).toNat → ¬ FaultHolds (regs 0 0 0 0 0 0 0) g) ∧
    (FaultHolds (regs 0x1000 8 0x10 0x100F 0x20 4 2) .overlap ∧
      ∀ g, (faultCode g).toNat < (faultCode .overlap).toNat → ¬ FaultHolds (regs 0x1000 8 0x10 0x100F 0x20 4 2) g) := by
  refine ⟨⟨.inl rfl, fun g => ?_⟩, ⟨?_, fun g => ?_⟩⟩
  · cases g <;> simp only [FaultHolds] <;> decide
  · simp only [FaultHolds]; decide
  · cases g <;> simp only [FaultHolds] <;> decide

/-- A device right behind the source region. -/
theorem witness_CheckAcceptsLegalLaunch :
    let s := { busyWith cfgP1 with platform := [⟨0x1004, 0xFFC, .device⟩] }
    (∀ f, ¬ FaultHolds s.cfg f) ∧
    ∀ a, inSource s.cfg a = true ∨ inDestination s.cfg a = true → answerAt s.platform a ≠ .device := by
  refine ⟨legal_P1, fun a h => ?_⟩
  have h' : (0x1000 ≤ a ∧ a < 0x1004) ∨ (0x2000 ≤ a ∧ a < 0x2008) := by
    simpa [inSource, inDestination, busyWith, srcExtent, dstExtent, cfgP1, regs] using h
  have : ¬ (0x1004 ≤ a ∧ a < 0x2000) := by omega
  unfold answerAt inWindow
  simp [Window.holds]
  omega

/-- A device at the last padding byte of program P2. -/
theorem witness_LaunchOnDeviceIsRefused :
    let s := { busyWith cfgP2 with platform := [⟨0x100F, 1, .device⟩] }
    (∀ f, ¬ FaultHolds s.cfg f) ∧ (inSource s.cfg 0x100F = true ∨ inDestination s.cfg 0x100F = true) ∧
    answerAt s.platform 0x100F = .device := ⟨legal_P2, by decide, by decide⟩

theorem witness_Fetch4ReadsTheGroup :
    ∀ i, i < 4 → answerAt (greyRun 0x02#5 0#1 0#32 0#32).platform
      (((greyRun 0x02#5 0#1 0#32 0#32).seq.scur.toNat + i) % 2 ^ 32) = .memory := by decide

theorem witness_UnansweredAccessIsStuck :
    let s := { greyRun 0x02#5 0#1 0#32 0#32 with platform := [⟨0x1003, 1, .absent⟩, ⟨0x2000, 1, .absent⟩] }
    ((∃ i, i < 4 ∧ answerAt s.platform ((s.seq.scur.toNat + i) % 2 ^ 32) = .absent) ∧
      (∀ i, i < 4 → answerAt s.platform ((s.seq.scur.toNat + i) % 2 ^ 32) ≠ .device)) ∧
    ((∃ i, i < 8 ∧ answerAt s.platform ((s.seq.dcur.toNat + i) % 2 ^ 32) = .absent) ∧
      (∀ i, i < 8 → answerAt s.platform ((s.seq.dcur.toNat + i) % 2 ^ 32) ≠ .device)) :=
  ⟨⟨⟨3, by decide, by decide⟩, by decide⟩, ⟨⟨0, by decide, by decide⟩, by decide⟩⟩

theorem witness_OnlyLegalParametersBuild :
    buildLayout ⟨1, 1, 0⟩ = some ⟨.vyuy, .bgra⟩ ∧ LayoutParams.wf ⟨1, 1, 0⟩ = true ∧
    paramsOf ⟨.vyuy, .bgra⟩ = ⟨1, 1, 0⟩ := by decide

theorem witness_ColourOperationsComputeCsc :
    (greyRun 0x04#5 0#1 0#32 0#32).agenda = [] ∧ (greyRun 0x04#5 0#1 0#32 0#32).seq.phase = 0x04#5 := by decide

theorem witness_PackPlacesThePixel : (sample 0#1).seq.k = 0#1 ∧ (sample 1#1).seq.k = 1#1 := by decide

/-- A store that runs past the top of the address space. -/
theorem witness_Store8WritesThePair :
    let s := { greyRun 0x10#5 1#1 0#32 0#32 with seq := { SeqRegs.afterReset with dcur := 0xFFFFFFFC#32 } }
    s.mem.wf = true ∧ ∀ i, i < 8 → answerAt s.platform ((s.seq.dcur.toNat + i) % 2 ^ 32) = .memory := by decide

/-- The last value the counter clauses of ADVANCE and NEXTROW admit. -/
theorem witness_counters :
    (greyRun 0x11#5 1#1 0xFFFFFFFE#32 0xFFFFFFFE#32).seq.col.toNat + 1 < 2 ^ 32 ∧
    (greyRun 0x12#5 1#1 0xFFFFFFFE#32 0xFFFFFFFE#32).seq.row.toNat + 1 < 2 ^ 32 := by decide

/-- Every clause of the succession has a state whose CONV turn goes on; each state's agenda is empty. -/
theorem witness_PhaseSuccession :
    (∃ t, step (idleWith cfgP1) = .next t) ∧
    ((∃ t, step ((busyWith HostRegs.zero).goto 1#5) = .next t) ∧ ∃ f, FaultHolds HostRegs.zero f) ∧
    ((∃ t, step ((busyWith cfgP1).goto 1#5) = .next t) ∧ ∀ f, ¬ FaultHolds cfgP1 f) ∧
    (∃ t, step (greyRun 0x02#5 1#1 0#32 0#32) = .next t) ∧ (∃ t, step (greyRun 0x0E#5 1#1 0#32 0#32) = .next t) ∧
    (∃ t, step (greyRun 0x0F#5 0#1 0#32 0#32) = .next t) ∧ (∃ t, step (greyRun 0x0F#5 1#1 0#32 0#32) = .next t) ∧
    (∃ t, step (greyRun 0x10#5 1#1 0#32 0#32) = .next t) ∧
    ((∃ t, step { greyRun 0x11#5 1#1 0#32 0#32 with cfg := regs 0x1000 8 8 0x2000 16 4 1 } = .next t) ∧ 2 * (0 + 1) < 4) ∧
    (∃ t, step (greyRun 0x11#5 1#1 0#32 0#32) = .next t) ∧
    ((∃ t, step { greyRun 0x12#5 1#1 1#32 0#32 with cfg := cfgP2 } = .next t) ∧ 0 + 1 < 2) ∧
    (∃ t, step (greyRun 0x12#5 1#1 1#32 0#32) = .next t) ∧ (∃ t, step (greyRun 0x13#5 1#1 0#32 1#32) = .next t) :=
  ⟨⟨_, rfl⟩, ⟨⟨_, rfl⟩, .dim, .inl rfl⟩, ⟨⟨_, rfl⟩, legal_P1⟩, ⟨_, rfl⟩, ⟨_, rfl⟩, ⟨_, rfl⟩, ⟨_, rfl⟩, ⟨_, rfl⟩,
    ⟨⟨_, rfl⟩, by decide⟩, ⟨_, rfl⟩, ⟨⟨_, rfl⟩, by decide⟩, ⟨_, rfl⟩, ⟨_, rfl⟩⟩

/-- The control invariant holds of a run at its `STORE8`. -/
theorem grey_control : ControlInv (greyRun 0x10#5 1#1 0#32 0#32) := by
  unfold ControlInv StatusLegal
  decide

/-- So do the cursors. -/
theorem grey_cursors : CursorInv (greyRun 0x10#5 1#1 0#32 0#32) := by
  unfold CursorInv RowCursors PairCursors
  decide

/-- So does the datapath. -/
theorem grey_datapath : DatapathInv (greyRun 0x10#5 1#1 0#32 0#32) := by
  simp only [DatapathInv, PairStage, LaneStage, PackStage]
  decide

/-- So does the frame. -/
theorem grey_frame : FrameInv (greyRun 0x10#5 1#1 0#32 0#32) := by
  refine ⟨fun _ _ _ => rfl, fun _ j hj => ?_, fun _ _ _ _ => rfl, fun _ => by decide⟩
  have h0 : bytesDone (greyRun 0x10#5 1#1 0#32 0#32) = 0 := by decide
  omega

/-- For the five kept invariants: they hold at this state and its step goes on. -/
theorem witness_invariants :
    RunInv (greyRun 0x10#5 1#1 0#32 0#32) ∧ ∃ t, step (greyRun 0x10#5 1#1 0#32 0#32) = .next t :=
  ⟨⟨grey_control, by unfold MemoryInv; decide, grey_cursors, grey_datapath, grey_frame⟩, _, rfl⟩

/-- The datapath invariant at a state where the datapath clauses say something. -/
theorem witness_DatapathInvariantKept :
    DatapathInv (greyRun 0x0F#5 1#1 0#32 0#32) ∧ ∃ t, step (greyRun 0x0F#5 1#1 0#32 0#32) = .next t := by
  refine ⟨?_, _, rfl⟩
  simp only [DatapathInv, PairStage, LaneStage, PackStage]
  decide

/-- For the statements about `FINISH` and alpha: a run about to finish, and its last pixel. -/
theorem witness_FinishFindsFrameConverted :
    RunInv (greyRun 0x13#5 1#1 0#32 1#32) ∧ (greyRun 0x13#5 1#1 0#32 1#32).seq.phase = 0x13#5 ∧
    1 < (greyRun 0x13#5 1#1 0#32 1#32).cfg.width.toNat * (greyRun 0x13#5 1#1 0#32 1#32).cfg.height.toNat := by
  refine ⟨⟨?_, by unfold MemoryInv; decide, ?_, ?_, fun _ _ _ => rfl, fun _ j hj => ?_, fun _ _ _ _ => rfl, fun h => ?_⟩, rfl, by decide⟩
  · unfold ControlInv StatusLegal
    decide
  · unfold CursorInv RowCursors PairCursors
    decide
  · simp only [DatapathInv, PairStage, LaneStage, PackStage]
    decide
  · have h8 : bytesDone (greyRun 0x13#5 1#1 0#32 1#32) = 8 := by decide
    rw [h8] at hj
    revert j
    decide
  · revert h
    decide

theorem witness_WholeRunConvertsTheFrame :
    let s := startNext { idleWith cfgP1 with mem := greyMem }
    s.agenda = [.command 0x1000000001#37] ∧ s.status.busy = false ∧ s.mem.wf = true ∧ (∀ f, ¬ FaultHolds s.cfg f) ∧
    RegionsAnswer s := ⟨rfl, rfl, by decide, legal_P1, fun _ _ => rfl⟩

/-- P4's first launch: an odd width. -/
theorem witness_FaultingRunTouchesNothing :
    let s := startNext (idleWith (regs 0x1000 8 16 0x2000 16 3 1))
    s.agenda = [.command 0x1000000001#37] ∧ s.status.busy = false ∧ FaultHolds s.cfg .oddWidth :=
  ⟨rfl, rfl, show (3 : Nat) % 2 = 1 by decide⟩

theorem witness_FetchReadsOnlyPayload :
    CursorInv (greyRun 0x02#5 0#1 0#32 0#32) ∧ (greyRun 0x02#5 0#1 0#32 0#32).seq.phase = 0x02#5 ∧ 3 < 4 := by
  refine ⟨?_, rfl, by decide⟩
  unfold CursorInv RowCursors PairCursors
  decide

theorem witness_ConvWritesOnlyTheDestination :
    MemoryInv (greyRun 0x10#5 1#1 0#32 0#32) ∧ CursorInv (greyRun 0x10#5 1#1 0#32 0#32) ∧
    nextEvent (greyRun 0x10#5 1#1 0#32 0#32) = .conv ∧ ∃ t, step (greyRun 0x10#5 1#1 0#32 0#32) = .next t :=
  ⟨by unfold MemoryInv; decide, grey_cursors, rfl, _, rfl⟩

/-- P2: two memories that differ in a padding byte and in an old destination byte. -/
theorem witness_ResultDependsOnlyOnPayload :
    let s := startNext { idleWith cfgP2 with mem := [(0x1000, 1#8), (0x1004, 0xAA#8)] }
    let s' := startNext { idleWith cfgP2 with mem := [(0x1000, 1#8), (0x2000, 0xCC#8)], seq := { SeqRegs.afterReset with col := 9#32 } }
    s.layout = s'.layout ∧ s.cfg = s'.cfg ∧ (∀ f, ¬ FaultHolds s.cfg f) ∧
    (∀ a, inPayload s.cfg a = true → s.mem.read a = s'.mem.read a) ∧ s.agenda = [.command 0x1000000001#37] ∧
    s'.agenda = [.command 0x1000000001#37] ∧ s.status.busy = false ∧ s'.status.busy = false ∧ s.mem.wf = true ∧
    s'.mem.wf = true ∧ RegionsAnswer s ∧ RegionsAnswer s' := by
  refine ⟨rfl, rfl, legal_P2, fun a h => ?_, rfl, rfl, rfl, rfl, by decide, by decide, fun _ _ => rfl, fun _ _ => rfl⟩
  have hne : a ≠ 0x1004 ∧ a ≠ 0x2000 := by
    constructor <;> (rintro rfl; revert h; decide)
  simp [startNext, Memory.read, hne.1.symm, hne.2.symm]

/-- START from idle; reset, `FINISH` and a fault from busy. -/
theorem witness_OnlyTheseEventsChangeBusy :
    (after (step (startNext (idleWith cfgP1))) (·.status.busy) = some true ∧ (startNext (idleWith cfgP1)).status.busy = false) ∧
    after (step { busyWith HostRegs.zero with agenda := [.reset] }) (·.status.busy) = some false ∧
    after (step (greyRun 0x13#5 1#1 0#32 1#32)) (·.status.busy) = some false ∧
    after (step ((busyWith HostRegs.zero).goto 1#5)) (·.status.busy) = some false ∧ (busyWith HostRegs.zero).status.busy = true := by
  decide

/-- A configuration write meets a run. -/
theorem witness_ConfigConstantWhileBusy :
    let s := { greyRun 0x10#5 1#1 0#32 0#32 with agenda := [.command 0x1700000004#37] }
    (∃ t, step s = .next t) ∧ s.status.busy = true ∧ nextEvent s ≠ .reset := ⟨⟨_, rfl⟩, rfl, by decide⟩

/-- The last row of program P2: the configuration of the range, and a launch of it. -/
theorem witness_FrameSplitsByRows :
    let s := startNext { idleWith (rowRange cfgP2 1 1) with mem := [(0x1008, 0x80#8), (0x100C, 0x55#8), (0x2000, 0xCC#8)] }
    ((∀ f, ¬ FaultHolds cfgP2 f) ∧ 0 < 1 ∧ 1 + 1 ≤ cfgP2.height.toNat) ∧ (1 ≤ 1 ∧ 1 < 1 + 1) ∧
    s.cfg = rowRange cfgP2 1 1 ∧ s.agenda = [.command 0x1000000001#37] ∧ s.status.busy = false ∧ s.mem.wf = true ∧
    RegionsAnswer s ∧ (0x2007 < pixelAddr cfgP2 1 0 ∧ pixelAddr cfgP2 (1 + 1) 0 ≤ 0x2010) :=
  ⟨⟨legal_P2, by decide, by decide⟩, by decide, rfl, rfl, rfl, by decide, fun _ _ => rfl, by decide⟩

/-- A block whose run HOST owes its duties on is over, and one in a run: the two ways to owe. -/
theorem owes_examples :
    Owes { idleWith cfgP1 with owed := [cfgP2] } cfgP2 ∧ Owes (busyWith cfgP2) cfgP2 ∧
    ∀ c, Owes (busyWith cfgP2) c → c = cfgP2 :=
  ⟨.inr (.head _), .inl ⟨rfl, rfl⟩, fun _ h => h.elim (·.2) (fun h => nomatch h)⟩

/-- One state for each duty, at the edges of the regions: the run in progress, and a run that is over but not seen so. -/
theorem witness_BrokenDutyIsRefused :
    let w := { busyWith cfgP2 with agenda := [.hostWrite 0x100B#32 0#8] }
    let d := { busyWith cfgP2 with agenda := [.hostWrite 0x200F#32 0#8] }
    let r := { idleWith cfgP1 with owed := [cfgP2], agenda := [.hostRead 0x2000#32] }
    (Owes w cfgP2 ∧ nextEvent w = .hostWrite 0x100B#32 0#8 ∧ inPayload cfgP2 (0x100B#32 : Word).toNat = true) ∧
    (Owes d cfgP2 ∧ nextEvent d = .hostWrite 0x200F#32 0#8 ∧
      (∀ c, Owes d c → inPayload c (0x200F#32 : Word).toNat = false) ∧
      inDestination cfgP2 (0x200F#32 : Word).toNat = true) ∧
    (Owes r cfgP2 ∧ nextEvent r = .hostRead 0x2000#32 ∧ inDestination cfgP2 (0x2000#32 : Word).toNat = true) := by
  refine ⟨⟨owes_examples.2.1, rfl, by decide⟩, ⟨owes_examples.2.1, rfl, fun c h => ?_, by decide⟩,
    ⟨owes_examples.1, rfl, by decide⟩⟩
  rw [owes_examples.2.2 c h]
  decide

/-- A `START`, a `STATUS` read that shows `BUSY = 0`, and a step that is neither. -/
theorem witness_DutiesHoldUntilIdleIsSeen :
    let s := startNext (idleWith cfgP1)
    let q := { idleWith cfgP1 with owed := [cfgP2], agenda := [.command 0x0100000000#37] }
    let f := { greyRun 0x13#5 1#1 0#32 1#32 with owed := [cfgP1] }
    ((∃ t, step s = .next t) ∧ s.status.busy = false ∧ nextEvent s = .command 0x1000000001#37 ∧
      decodeHt 0x1000000001#37 = .start) ∧
    ((∃ t, step q = .next t) ∧ q.status.busy = false ∧ nextEvent q = .command 0x0100000000#37 ∧
      decodeHt 0x0100000000#37 = .regrd 1#4) ∧
    ((∃ t, step f = .next t) ∧ nextEvent f = .conv) :=
  ⟨⟨⟨_, rfl⟩, rfl, rfl, rfl⟩, ⟨⟨_, rfl⟩, rfl, rfl, rfl⟩, ⟨⟨_, rfl⟩, rfl⟩⟩

/-- An idle block whose last run HOST has seen the end of: it reads the destination and writes the payload. -/
theorem witness_HostMovesFreelyOutsideItsDuties :
    let r := { idleWith cfgP1 with mem := greyMem, agenda := [.hostRead 0x2007#32] }
    let w := { idleWith cfgP1 with mem := greyMem, agenda := [.hostWrite 0x1000#32 9#8] }
    (r.mem.wf = true ∧ answerAt r.platform (0x2007#32 : Word).toNat = .memory ∧ nextEvent r = .hostRead 0x2007#32 ∧
      ∀ c, Owes r c → inDestination c (0x2007#32 : Word).toNat = false) ∧
    (w.mem.wf = true ∧ answerAt w.platform (0x1000#32 : Word).toNat = .memory ∧ nextEvent w = .hostWrite 0x1000#32 9#8 ∧
      ∀ c, Owes w c → inPayload c (0x1000#32 : Word).toNat = false ∧ inDestination c (0x1000#32 : Word).toNat = false) :=
  ⟨⟨by decide, by decide, rfl, fun _ h => h.elim (nomatch ·.1) (nomatch ·)⟩,
    ⟨by decide, by decide, rfl, fun _ h => h.elim (nomatch ·.1) (nomatch ·)⟩⟩

/-- In a run: the source read is of a payload byte, the write of the first padding byte. Idle: a write of the first destination
byte. -/
theorem witness_HostMayTouchPaddingAndReadSource :
    let r := { busyWith cfgP2 with agenda := [.hostRead 0x1000#32] }
    let w := { busyWith cfgP2 with agenda := [.hostWrite 0x1004#32 9#8] }
    let d := { idleWith cfgP2 with agenda := [.hostWrite 0x2000#32 9#8] }
    (r.mem.wf = true ∧ (∀ f, ¬ FaultHolds r.cfg f) ∧ (∀ c, Owes r c → c = r.cfg) ∧
      inSource r.cfg (0x1000#32 : Word).toNat = true ∧ answerAt r.platform (0x1000#32 : Word).toNat = .memory ∧
      nextEvent r = .hostRead 0x1000#32) ∧
    (w.mem.wf = true ∧ (∀ f, ¬ FaultHolds w.cfg f) ∧ (∀ c, Owes w c → c = w.cfg) ∧
      inSource w.cfg (0x1004#32 : Word).toNat = true ∧ answerAt w.platform (0x1004#32 : Word).toNat = .memory ∧
      nextEvent w = .hostWrite 0x1004#32 9#8 ∧ inPayload w.cfg (0x1004#32 : Word).toNat = false) ∧
    (d.mem.wf = true ∧ (∀ f, ¬ FaultHolds d.cfg f) ∧ (∀ c, Owes d c → c = d.cfg) ∧
      inDestination d.cfg (0x2000#32 : Word).toNat = true ∧ d.status.busy = false ∧ d.owed = [] ∧
      answerAt d.platform (0x2000#32 : Word).toNat = .memory ∧ nextEvent d = .hostWrite 0x2000#32 9#8) :=
  ⟨⟨rfl, legal_P2, owes_examples.2.2, by decide, by decide, rfl⟩,
    ⟨rfl, legal_P2, owes_examples.2.2, by decide, by decide, rfl, by decide⟩,
    ⟨rfl, legal_P2, fun _ h => h.elim (nomatch ·.1) (nomatch ·), by decide, rfl, rfl, by decide, rfl⟩⟩

/-- An idle block, and one whose `START` was accepted but whose configuration `CHECK` would fault. -/
theorem witness_ResetClearsTheBlock :
    let i := { idleWith cfgP2 with agenda := [.reset] }
    let b := { (busyWith HostRegs.zero).goto 1#5 with agenda := [.reset] }
    (nextEvent i = .reset ∧ i.status.busy = false) ∧ (nextEvent b = .reset ∧ b.status.busy = true ∧ ∃ f, FaultHolds b.cfg f) :=
  ⟨⟨rfl, rfl⟩, ⟨rfl, rfl, .dim, .inl rfl⟩⟩

theorem witness_ResetDuringRunLeavesOldOrFinal :
    let s := { greyRun 0x10#5 1#1 0#32 0#32 with agenda := [.reset] }
    nextEvent s = .reset ∧ s.status.busy = true ∧ (∀ f, ¬ FaultHolds s.cfg f) ∧ s.mem.wf = true :=
  ⟨rfl, rfl, legal_P1, by decide⟩

end Sys2Proof.Tests
end

section
/-!
Which instruction a step executes: a word that decodes runs the instruction it decodes to, and a step whose event selects a
word runs that word on the state with the turn taken off the agenda (R8, R108, R144).
-/

namespace Sys2Proof.Machine

theorem takeEvent_eq (s : State) : takeEvent s = { s with agenda := s.agenda.tail } := rfl

theorem runWord_of_decode_ok {c : CodeWord} {i : Instr} (h : decode c = .ok i) (s : State) : runWord c s = exec i s := by
  rw [runWord, h]

/-- R144: HOST's turn runs the transaction's word. -/
theorem step_of_command {s : State} {w : HtWord} (h : nextEvent s = .command w) :
    step s = runWord (.ht w) (takeEvent s) := by
  rw [step, h, happen]

/-- R8, R108: CONV's turn runs the code in `PHASE`; taking the event off the agenda leaves `PHASE` as it is. -/
theorem step_of_conv {s : State} (h : nextEvent s = .conv) : step s = runWord (.uop s.seq.phase) (takeEvent s) := by
  rw [step, h, happen, takeEvent_seq]

/-- Settles O5, one agent at a time. -/
theorem stepRunsDecodedInstruction : Obligations.StepRunsDecodedInstruction := by
  intro s i
  refine ⟨fun w turn decoded => ?command, fun turn decoded => ?conv⟩
  case command => rw [step_of_command turn, runWord_of_decode_ok decoded, takeEvent_eq]
  case conv => rw [step_of_conv turn, runWord_of_decode_ok decoded, takeEvent_eq]

end Sys2Proof.Machine
end

section
/-!
What a step can leave of the block itself: its layout, configuration, flags, sequencer and datapath. Every invariant of the
block is kept by an argument over these five effects (R8, R130 to R144, R250).
-/

namespace Sys2Proof.Machine

/-- The registers of the block are the same in two states; memory, and what HOST and the model record, may differ. -/
structure SameBlock (s t : State) : Prop where
  layout : t.layout = s.layout
  cfg : t.cfg = s.cfg
  status : t.status = s.status
  seq : t.seq = s.seq
  dp : t.dp = s.dp

theorem SameBlock.refl (s : State) : SameBlock s s := ⟨rfl, rfl, rfl, rfl, rfl⟩

/-- The five effects an event can have on the block. `s` is the state with the event already taken off the agenda. -/
inductive BlockEffect (s : State) (e : Event) (t : State) : Prop where
  /-- HOST reads a register or touches memory, or its command is ignored. -/
  | unchanged (same : SameBlock s t)
  /-- An accepted `START` (R131). -/
  | launch (w : HtWord) (event : e = .command w) (start : decodeHt w = .start) (idle : s.status.busy = false)
      (after : t = launched s)
  /-- A configuration register is written while idle (R133 to R139). -/
  | configure (c : HostRegs) (idle : s.status.busy = false) (after : t = s.setCfg c)
  /-- CONV performs the operation in `PHASE` (R108). -/
  | operate (i : Instr) (event : e = .conv) (code : encode i = .uop s.seq.phase) (performed : exec i s = .next t)
  /-- The reset input (R250). -/
  | reset (event : e = .reset) (after : t = resetInput s)

theorem blockEffect_of_exec_decodeHt {w : HtWord} {s t : State} (h : exec (decodeHt w) s = .next t) :
    BlockEffect s (.command w) t := by
  obtain ⟨t', ht', effect⟩ := exec_decodeHt w s
  obtain rfl : t' = t := by rw [ht'] at h; exact Host.Outcome.next.inj h
  rcases effect with ⟨rfl, -⟩ | ⟨n, -, rfl⟩ | ⟨idle, start, launch⟩ | ⟨idle, -, -, c, write⟩
  · exact .unchanged (.refl _)
  · exact .unchanged ⟨rfl, rfl, rfl, rfl, rfl⟩
  · exact .launch w rfl start idle launch
  · exact .configure c idle write

theorem blockEffect_of_step {s t : State} (h : step s = .next t) : BlockEffect (takeEvent s) (nextEvent s) t := by
  rcases step_next h with ⟨w, event, run⟩ | ⟨i, event, code, run⟩ | ⟨a, -, -, rfl⟩ | ⟨a, b, -, -, rfl⟩ | ⟨event, after⟩
  · exact event ▸ blockEffect_of_exec_decodeHt run
  · exact .operate i event code run
  · exact .unchanged ⟨rfl, rfl, rfl, rfl, rfl⟩
  · exact .unchanged ⟨rfl, rfl, rfl, rfl, rfl⟩
  · exact .reset event after

/-- What an operation of CONV does to the flags and to whether `PHASE` is `IDLE`: nothing, but for the fault `CHECK` takes
(R14) and for `FINISH` (R204). -/
theorem conv_flags {i : Instr} {s t : State} (code : encode i = .uop s.seq.phase) (run : exec i s = .next t) :
    (t.status = s.status ∧ (t.seq.phase = 0x00#5 ↔ s.seq.phase = 0x00#5) ∧ t.seq.phase.toNat < 0x14) ∨
    (s.seq.phase = 0x01#5 ∧ ∃ f, checkFault s.cfg = some f ∧ t = raiseConfigFault f s) ∨
    (s.seq.phase = 0x13#5 ∧ t = (s.setStatus (statusFinished s.status)).goto 0x00#5) := by
  rcases conv_next code run with ⟨hp, rfl⟩ | ⟨hp, fault | ⟨-, rfl⟩⟩ | ⟨hp, g, -, rfl⟩ | ⟨lo, hi, d, rfl, -⟩ |
    ⟨hp, -, d, rfl, -⟩ | ⟨hp, -, d, rfl, -⟩ | ⟨hp, rfl⟩ | ⟨hp, p, rfl, rfl⟩ | ⟨hp, p, rfl, rfl⟩ | finish
  · simp [hp]
  · exact .inr (.inl ⟨hp, fault⟩)
  · simp [hp, cursorsAtLaunch]
  · simp [hp]
  · refine .inl ⟨rfl, ?_, ?_⟩ <;>
      simp only [State.goto_seq, ← BitVec.toNat_inj, BitVec.toNat_ofNat] <;> omega
  · simp [hp]
  · simp [hp]
  · simp [hp]
  · left; split_ifs <;> simp [hp]
  · left; split_ifs <;> simp [hp]
  · exact .inr (.inr finish)

end Sys2Proof.Machine
end

section
/-!
The control state: the legal flags, and `PHASE = IDLE` exactly when `BUSY = 0` (R23, R33, R34).
-/

namespace Sys2Proof.Safety

open Sys2Proof.Machine

theorem statusLegal_zero : StatusLegal Status.zero := by simp [StatusLegal, Status.zero]

theorem statusLegal_started : StatusLegal statusStarted := by simp [StatusLegal, statusStarted]

/-- R221: every fault code lies between 1 and 7. -/
theorem statusLegal_faulted (f : ConfigFault) : StatusLegal (statusFaulted f) := by
  cases f <;> simp [StatusLegal, statusFaulted, faultCode]

/-- R204: `FINISH` leaves `ERR` and `ERRCODE`, which are 0 while busy. -/
theorem statusLegal_finished {x : Status} (h : StatusLegal x) (busy : x.busy = true) : StatusLegal (statusFinished x) := by
  obtain ⟨flags, noErr, -⟩ := h
  obtain ⟨-, err⟩ : x.done = false ∧ x.err = false := by simpa [busy] using flags
  simp [StatusLegal, statusFinished, err, noErr err]

/-- An idle block with legal flags is in a legal control state. -/
theorem ControlInv.of_idle {s : State} (legal : StatusLegal s.status) (idle : s.status.busy = false)
    (phase : s.seq.phase = 0x00#5) : ControlInv s :=
  ⟨legal, by simp [idle, phase], by simp [phase]⟩

theorem ControlInv.phase_eq_zero {s : State} (h : ControlInv s) (idle : s.status.busy = false) : s.seq.phase = 0x00#5 := by
  obtain ⟨-, idle_iff, -⟩ := h
  exact idle_iff.mpr idle

theorem ControlInv.busy_of_phase_ne {s : State} (h : ControlInv s) (phase : s.seq.phase ≠ 0x00#5) :
    s.status.busy = true := by
  obtain ⟨-, idle_iff, -⟩ := h
  simpa [phase] using idle_iff

theorem ControlInv.conv {i : Instr} {s t : State} (h : ControlInv s) (code : encode i = .uop s.seq.phase)
    (run : exec i s = .next t) : ControlInv t := by
  rcases conv_flags code run with ⟨status, phase, bound⟩ | ⟨-, f, -, rfl⟩ | ⟨hp, rfl⟩
  · obtain ⟨legal, idle, -⟩ := h
    exact ⟨status ▸ legal, by rw [phase, status, idle], bound⟩
  · exact .of_idle (statusLegal_faulted f) rfl rfl
  · exact .of_idle (statusLegal_finished h.1 (h.busy_of_phase_ne (by simp [hp]))) rfl rfl

/-- Settles O37, by the five effects a step can have on the block. -/
theorem controlInvariantKept : Obligations.ControlInvariantKept := by
  intro s t inv stepped
  have inv' : ControlInv (takeEvent s) := inv
  cases blockEffect_of_step stepped with
  | unchanged same => simpa only [ControlInv, same.status, same.seq] using inv'
  | launch w _ _ _ after =>
    subst after
    exact ⟨statusLegal_started, by simp [statusStarted], by simp⟩
  | configure c _ after => exact after ▸ inv'
  | operate i _ code run => exact inv'.conv code run
  | reset _ after =>
    subst after
    exact .of_idle statusLegal_zero rfl rfl

/-- A fault `CHECK` takes has a condition of R221 that holds. -/
theorem exists_faultHolds_of_checkFault {c : HostRegs} {f : ConfigFault} (h : checkFault c = some f) :
    ∃ g, FaultHolds c g := by
  by_contra none
  rw [(checkFault_none_iff_not_holds c).mpr (not_exists.mp none)] at h
  cases h

/-- Settles O50: of the five effects only an accepted `START` sets `BUSY`, and only reset and two operations of CONV clear
it. -/
theorem onlyTheseEventsChangeBusy : Obligations.OnlyTheseEventsChangeBusy := by
  intro s t stepped
  cases blockEffect_of_step stepped with
  | unchanged same => simp +contextual [same.status]
  | launch w event start idle _ =>
    exact ⟨fun _ _ => ⟨w, event, start⟩, fun busy _ => absurd (idle.symm.trans busy) (by decide)⟩
  | configure c _ after => simp +contextual [after]
  | operate i event code run =>
    rcases conv_flags code run with ⟨status, -, -⟩ | ⟨check, f, fault, rfl⟩ | ⟨finish, rfl⟩
    · simp +contextual [status]
    · exact ⟨fun _ set => absurd set Bool.false_ne_true,
        fun _ _ => .inr ⟨event, .inr ⟨check, exists_faultHolds_of_checkFault fault⟩⟩⟩
    · exact ⟨fun _ set => absurd set Bool.false_ne_true, fun _ _ => .inr ⟨event, .inl finish⟩⟩
  | reset event after =>
    subst after
    exact ⟨fun _ set => absurd set Bool.false_ne_true, fun _ _ => .inl event⟩

end Sys2Proof.Safety
end

section
/-!
The cursors of a run: they point at a pair of the frame, and no cursor wraps because the regions of an accepted launch end
within the address space (R36, R37, R201).
-/

namespace Sys2Proof.Safety

open Sys2Proof.Machine

/-- A row of an accepted launch ends within the address space, in the source and in the destination (R201). -/
theorem row_fits {c : HostRegs} {r : Nat} (legal : checkFault c = none) (hr : r < c.height.toNat) :
    c.srcBase.toNat + r * c.srcStride.toNat + c.srcStride.toNat ≤ 2 ^ 32 ∧
      c.dstBase.toNat + r * (4 * c.width.toNat) + 4 * c.width.toNat ≤ 2 ^ 32 := by
  obtain ⟨-, -, -, -, -, -, src, dst, -⟩ := (checkFault_none_iff c).mp legal
  have rowEnd (size : Nat) : r * size + size ≤ size * c.height.toNat := by
    calc r * size + size = size * (r + 1) := by ring
      _ ≤ size * c.height.toNat := Nat.mul_le_mul_left _ hr
  have srcEnd := rowEnd c.srcStride.toNat
  have dstEnd := rowEnd (4 * c.width.toNat)
  unfold srcExtent at src
  unfold dstExtent at dst
  omega

theorem cursorInv_of_phase_lt {s : State} (h : s.seq.phase.toNat < 0x02) : CursorInv s := by
  refine ⟨?_, ?_, ?_, ?_⟩ <;> omega

theorem cursorInv_of_pair {s : State} (legal : checkFault s.cfg = none) (row : RowCursors s) (pair : PairCursors s)
    (phase : s.seq.phase.toNat ≤ 0x11) : CursorInv s :=
  ⟨fun _ => legal, fun _ => ⟨row, pair⟩, by omega, by omega⟩

theorem cursorInv_of_rowDone {s : State} (legal : checkFault s.cfg = none) (row : RowCursors s)
    (col : 2 * s.seq.col.toNat = s.cfg.width.toNat) (phase : s.seq.phase = 0x12#5) : CursorInv s :=
  ⟨fun _ => legal, by simp [phase], fun _ => ⟨row, col⟩, by simp [phase]⟩

theorem cursorInv_of_frameDone {s : State} (legal : checkFault s.cfg = none)
    (row : s.seq.row.toNat = s.cfg.height.toNat) (phase : s.seq.phase = 0x13#5) : CursorInv s :=
  ⟨fun _ => legal, by simp [phase], by simp [phase], fun _ => row⟩

/-- An operation that moves no cursor, from `FETCH4` to `STORE8`, keeps the pair (R205). -/
theorem cursorInv_of_same_pair {s t : State} {k : BitVec 1} {p : PhaseCode} (h : CursorInv s)
    (lo : 0x02 ≤ s.seq.phase.toNat) (hi : s.seq.phase.toNat ≤ 0x11) (cfg : t.cfg = s.cfg)
    (seq : t.seq = { s.seq with k := k, phase := p }) (hp : p.toNat ≤ 0x11) : CursorInv t := by
  obtain ⟨legal, inPair, -, -⟩ := h
  obtain ⟨row, pair⟩ := inPair ⟨lo, hi⟩
  refine cursorInv_of_pair (by rw [cfg]; exact legal lo) ?_ ?_ (by simpa [seq] using hp)
  · simpa only [RowCursors, cfg, seq] using row
  · simpa only [PairCursors, cfg, seq] using pair

/-- R201: a launch starts at the first pair of the first row. -/
theorem cursorInv_launch {s : State} (legal : checkFault s.cfg = none) : CursorInv (s.setSeq (cursorsAtLaunch s)) := by
  obtain ⟨width, height, -⟩ := (checkFault_none_iff _).mp legal
  refine cursorInv_of_pair legal ?_ ?_ (by simp [cursorsAtLaunch])
  · simpa [RowCursors, cursorsAtLaunch] using height
  · simpa [PairCursors, cursorsAtLaunch] using width

/-- R202: `ADVANCE` moves to the next pair of the row, or completes the row. -/
theorem cursorInv_advance {s : State} (legal : checkFault s.cfg = none) (row : RowCursors s) (pair : PairCursors s) :
    CursorInv (s.setSeq { s.seq with
      scur := s.seq.scur + 4#32, dcur := s.seq.dcur + 8#32, col := s.seq.col + 1#32,
      phase := if s.cfg.width.toNat ≤ 2 * (s.seq.col.toNat + 1) then 0x12#5 else 0x02#5 }) := by
  obtain ⟨-, -, even, stride, -⟩ := (checkFault_none_iff _).mp legal
  obtain ⟨srcFits, dstFits⟩ := row_fits legal row.1
  obtain ⟨-, srow, drow⟩ := id row
  obtain ⟨col, scur, dcur⟩ := pair
  have colNext : (s.seq.col + 1#32).toNat = s.seq.col.toNat + 1 := by bv_omega
  split_ifs with last
  · exact cursorInv_of_rowDone legal row (by simp only [State.setSeq_seq, State.setSeq_cfg, colNext]; omega) rfl
  · refine cursorInv_of_pair legal row ⟨?_, ?_, ?_⟩ (by simp)
    all_goals simp only [State.setSeq_seq, State.setSeq_cfg, colNext, BitVec.toNat_add, BitVec.toNat_ofNat]; omega

/-- R203: `NEXTROW` moves to the first pair of the next row, or completes the frame. -/
theorem cursorInv_nextrow {s : State} (legal : checkFault s.cfg = none) (row : RowCursors s) :
    CursorInv (s.setSeq { s.seq with
      srow := s.seq.srow + s.cfg.srcStride, scur := s.seq.srow + s.cfg.srcStride,
      drow := s.seq.drow + 4#32 * s.cfg.width, dcur := s.seq.drow + 4#32 * s.cfg.width, col := 0#32,
      row := s.seq.row + 1#32,
      phase := if s.cfg.height.toNat ≤ s.seq.row.toNat + 1 then 0x13#5 else 0x02#5 }) := by
  obtain ⟨width, -, -, stride, -⟩ := (checkFault_none_iff _).mp legal
  obtain ⟨inFrame, srow, drow⟩ := row
  have rowNext : (s.seq.row + 1#32).toNat = s.seq.row.toNat + 1 := by bv_omega
  split_ifs with last
  · exact cursorInv_of_frameDone legal (by simp only [State.setSeq_seq, State.setSeq_cfg, rowNext]; omega) rfl
  · obtain ⟨srcFits, dstFits⟩ := row_fits legal (show s.seq.row.toNat + 1 < s.cfg.height.toNat by omega)
    rw [Nat.add_mul, Nat.one_mul] at srcFits dstFits
    refine cursorInv_of_pair legal ⟨?_, ?_, ?_⟩ ⟨?_, ?_, ?_⟩ (by simp)
    all_goals simp only [State.setSeq_seq, State.setSeq_cfg, rowNext, BitVec.toNat_add, BitVec.toNat_mul,
      BitVec.toNat_ofNat, Nat.add_mul, Nat.one_mul]; omega

theorem cursorInv_conv {i : Instr} {s t : State} (h : CursorInv s) (code : encode i = .uop s.seq.phase)
    (run : exec i s = .next t) : CursorInv t := by
  obtain ⟨legal, inPair, rowDone, -⟩ := id h
  rcases conv_next code run with ⟨hp, rfl⟩ | ⟨hp, ⟨f, -, rfl⟩ | ⟨ok, rfl⟩⟩ | ⟨hp, g, -, rfl⟩ | ⟨lo, hi, d, rfl, -⟩ |
    ⟨hp, -, d, rfl, -⟩ | ⟨hp, -, d, rfl, -⟩ | ⟨hp, rfl⟩ | ⟨hp, p, rfl, rfl⟩ | ⟨hp, p, rfl, rfl⟩ | ⟨hp, rfl⟩
  · exact h
  · exact cursorInv_of_phase_lt Nat.zero_lt_two
  · exact cursorInv_launch ok
  · exact cursorInv_of_same_pair h (by simp [hp]) (by simp [hp]) rfl rfl (by decide)
  · exact cursorInv_of_same_pair h (by omega) (by omega) rfl rfl (by rw [BitVec.toNat_ofNat]; omega)
  · exact cursorInv_of_same_pair h (by simp [hp]) (by simp [hp]) rfl rfl (by decide)
  · exact cursorInv_of_same_pair h (by simp [hp]) (by simp [hp]) rfl rfl (by decide)
  · exact cursorInv_of_same_pair h (by simp [hp]) (by simp [hp]) rfl rfl (by decide)
  · obtain ⟨row, pair⟩ := inPair (by simp [hp])
    exact cursorInv_advance (legal (by simp [hp])) row pair
  · obtain ⟨row, -⟩ := rowDone (by simp [hp])
    exact cursorInv_nextrow (legal (by simp [hp])) row
  · exact cursorInv_of_phase_lt (by simp)

/-- Settles O39, by the five effects a step can have on the block: only CONV moves a cursor, and an idle block has none to
keep. -/
theorem cursorInvariantKept : Obligations.CursorInvariantKept := by
  intro s t control inv stepped
  have inv' : CursorInv (takeEvent s) := inv
  cases blockEffect_of_step stepped with
  | unchanged same => simpa only [CursorInv, RowCursors, PairCursors, same.cfg, same.seq] using inv'
  | launch w _ _ _ after => exact after ▸ cursorInv_of_phase_lt (by simp)
  | configure c idle after =>
    have phase : s.seq.phase = 0x00#5 := control.phase_eq_zero idle
    exact after ▸ cursorInv_of_phase_lt (by simp [phase])
  | operate i _ code run => exact cursorInv_conv inv' code run
  | reset _ after => exact after ▸ cursorInv_of_phase_lt Nat.zero_lt_two

end Sys2Proof.Safety
end

section
/-!
The ranges of the offset terms, and what they make exact: a term narrowed to an accumulator, and the sum of a term and the
scaled luma (R161 to R168).
-/

namespace Sys2Proof.Machine

theorem blueTerm_range (u : Byte) : -270327040 ≤ blueTerm (centred u) ∧ blueTerm (centred u) ≤ 269259590 := by
  have := centred_range u
  unfold blueTerm bias coefUB
  omega

/-- The red term stays within the range of the blue one. -/
theorem redTerm_range (v : Byte) : -270327040 ≤ redTerm (centred v) ∧ redTerm (centred v) ≤ 269259590 := by
  have := centred_range v
  unfold redTerm bias coefVR
  omega

/-- The green term stays within the range of the blue one. -/
theorem greenTerm_range (u v : Byte) :
    -270327040 ≤ greenTerm (centred u) (centred v) ∧ greenTerm (centred u) (centred v) ≤ 269259590 := by
  have := centred_range u
  have := centred_range v
  unfold greenTerm bias coefVG coefUG
  omega

theorem toAccum_scaledLuma (y : Byte) : (toAccum (scaledLuma y)).toInt = scaledLuma y := by
  have := scaledLuma_range y
  apply toAccum_toInt <;> omega

theorem toAccum_redTerm {sv v : Byte} (hv : sv.toInt = centred v) :
    (toAccum (redTerm sv.toInt)).toInt = redTerm (centred v) := by
  have := redTerm_range v
  rw [hv]
  apply toAccum_toInt <;> omega

theorem toAccum_greenTerm {su sv u v : Byte} (hu : su.toInt = centred u) (hv : sv.toInt = centred v) :
    (toAccum (greenTerm su.toInt sv.toInt)).toInt = greenTerm (centred u) (centred v) := by
  have := greenTerm_range u v
  rw [hu, hv]
  apply toAccum_toInt <;> omega

theorem toAccum_blueTerm {su u : Byte} (hu : su.toInt = centred u) :
    (toAccum (blueTerm su.toInt)).toInt = blueTerm (centred u) := by
  have := blueTerm_range u
  rw [hu]
  apply toAccum_toInt <;> omega

/-- The sum of a lane is exact and floored for every term as large as those of R161 to R163. -/
theorem toAccum_laneSum {ys term : Accum} {y : Byte} {x : Int} (luma : ys.toInt = scaledLuma y) (offset : term.toInt = x)
    (range : -270327040 ≤ x ∧ x ≤ 269259590) : (toAccum (shiftedSum ys term)).toInt = asr20 (scaledLuma y + x) := by
  have := scaledLuma_range y
  apply toAccum_shiftedSum luma offset <;> omega

theorem toInt_ofInt_centred (c : Byte) : (BitVec.ofInt 8 (centred c)).toInt = centred c :=
  ofInt8_toInt (centred_range c).1 (centred_range c).2

end Sys2Proof.Machine
end

section
/-!
The datapath of a run. Each operation from `UNPACK` to `SATB` writes the register the next phase relies on and leaves those
that earlier phases wrote (R150 to R183); so one lemma about such an operation keeps the invariant, and `PACK` closes the
lane (R190).
-/

namespace Sys2Proof.Safety

open Sys2Proof.Machine

/-- What the operation before phase `n` wrote to the datapath: `UNPACK` before 0x04, up to `SATB` before 0x0F. -/
def Written (l : Layout) (k : BitVec 1) (d : Datapath) : Nat → Prop
  | 0x04 => samplesOf d = unpackGroup l.source d.group
  | 0x05 => d.su.toInt = centred d.u ∧ d.sv.toInt = centred d.v
  | 0x06 => d.rt.toInt = redTerm (centred d.v)
  | 0x07 => d.gt.toInt = greenTerm (centred d.u) (centred d.v)
  | 0x08 => d.bt.toInt = blueTerm (centred d.u)
  | 0x09 => d.ys.toInt = scaledLuma (laneLuma d k)
  | 0x0A => d.rs.toInt = asr20 (scaledLuma (laneLuma d k) + redTerm (centred d.v))
  | 0x0B => d.gs.toInt = asr20 (scaledLuma (laneLuma d k) + greenTerm (centred d.u) (centred d.v))
  | 0x0C => d.bs.toInt = asr20 (scaledLuma (laneLuma d k) + blueTerm (centred d.u))
  | 0x0D => d.r8 = (csc (laneLuma d k) d.u d.v).r
  | 0x0E => d.g8 = (csc (laneLuma d k) d.u d.v).g
  | 0x0F => d.b8 = (csc (laneLuma d k) d.u d.v).b
  | _ => True

theorem written_center_iff {l : Layout} {k : BitVec 1} {d : Datapath} :
    Written l k d 0x05 ↔ d.su.toInt = centred d.u ∧ d.sv.toInt = centred d.v := Iff.rfl

/-- From `UNPACK` to `PACK` the invariant says: the chroma operations run in lane 0, in lane 1 the first pixel is packed, and
what every operation before this phase wrote is still there. -/
theorem datapathInv_iff {s : State} (lo : 0x03 ≤ s.seq.phase.toNat) (hi : s.seq.phase.toNat ≤ 0x0F) :
    DatapathInv s ↔
      (s.seq.phase.toNat ≤ 0x07 → s.seq.k = 0#1) ∧
      (0x08 ≤ s.seq.phase.toNat → s.seq.k = 1#1 → firstPixel s.dp = groupPixel s.layout s.dp.group 0#1) ∧
      ∀ n, 0x04 ≤ n ∧ n ≤ s.seq.phase.toNat → Written s.layout s.seq.k s.dp n := by
  constructor
  · rintro ⟨⟨lane0, h4, h5, h6, h7, h8⟩, ⟨h9, hA, hB, hC, hD, hE, hF⟩, packed, -⟩
    refine ⟨fun h => lane0 ⟨lo, h⟩, fun h k => packed ⟨h, hi, k⟩, fun n ⟨_, hn⟩ => ?_⟩
    have upTo : n ≤ 0x0F := by omega
    interval_cases n
    · exact h4 ⟨hn, hi⟩
    · exact h5 ⟨hn, hi⟩
    · exact h6 ⟨hn, hi⟩
    · exact h7 ⟨hn, hi⟩
    · exact h8 ⟨hn, hi⟩
    · exact h9 ⟨hn, hi⟩
    · exact hA ⟨hn, hi⟩
    · exact hB ⟨hn, hi⟩
    · exact hC ⟨hn, hi⟩
    · exact hD ⟨hn, hi⟩
    · exact hE ⟨hn, hi⟩
    · exact hF (by omega)
  · rintro ⟨lane0, packed, written⟩
    have stage (n : Nat) (four : 0x04 ≤ n) (upTo : n ≤ s.seq.phase.toNat) := written n ⟨four, upTo⟩
    refine ⟨⟨fun h => lane0 h.2, ?_, ?_, ?_, ?_, ?_⟩, ⟨?_, ?_, ?_, ?_, ?_, ?_, ?_⟩,
      fun ⟨h, _, k⟩ => packed h k, fun h => by omega⟩
    · exact fun h => stage 0x04 (by decide) h.1
    · exact fun h => stage 0x05 (by decide) h.1
    · exact fun h => stage 0x06 (by decide) h.1
    · exact fun h => stage 0x07 (by decide) h.1
    · exact fun h => stage 0x08 (by decide) h.1
    · exact fun h => stage 0x09 (by decide) h.1
    · exact fun h => stage 0x0A (by decide) h.1
    · exact fun h => stage 0x0B (by decide) h.1
    · exact fun h => stage 0x0C (by decide) h.1
    · exact fun h => stage 0x0D (by decide) h.1
    · exact fun h => stage 0x0E (by decide) h.1
    · exact fun h => stage 0x0F (by decide) h.ge

/-- Before a group is read and after its pair is stored nothing is claimed of the datapath. -/
theorem datapathInv_of_phase {s : State} (h : s.seq.phase.toNat < 0x03 ∨ 0x10 < s.seq.phase.toNat) :
    DatapathInv s := by
  refine ⟨⟨?_, ?_, ?_, ?_, ?_, ?_⟩, ⟨?_, ?_, ?_, ?_, ?_, ?_, ?_⟩, ⟨?_, ?_⟩⟩ <;> omega

/-- An operation of phase `p` that writes the datapath to `d` and goes on to phase `p + 1` keeps the invariant when `d` holds
what earlier operations wrote and what this one was to write. -/
theorem datapathInv_goto_succ {s : State} {d : Datapath} (p : Nat) (inv : DatapathInv s)
    (phase : BitVec.ofNat 5 p = s.seq.phase) (range : 0x03 ≤ p ∧ p ≤ 0x0E)
    (group : d.group = s.dp.group) (pixel : firstPixel d = firstPixel s.dp)
    (kept : ∀ n, 0x04 ≤ n ∧ n ≤ p → Written s.layout s.seq.k s.dp n → Written s.layout s.seq.k d n)
    (new : (∀ n, 0x04 ≤ n ∧ n ≤ p → Written s.layout s.seq.k s.dp n) → Written s.layout s.seq.k d (p + 1)) :
    DatapathInv ((s.setDp d).goto (BitVec.ofNat 5 (p + 1))) := by
  obtain ⟨lo, hi⟩ := range
  have now : s.seq.phase.toNat = p := by rw [← phase, BitVec.toNat_ofNat]; omega
  have next : (BitVec.ofNat 5 (p + 1)).toNat = p + 1 := by rw [BitVec.toNat_ofNat]; omega
  obtain ⟨lane0, packed, written⟩ := (datapathInv_iff (by omega) (by omega)).mp inv
  rw [now] at lane0 packed written
  refine (datapathInv_iff ?_ ?_).mpr ⟨fun h => ?_, fun h k => ?_, fun n hn => ?_⟩ <;>
    simp only [State.goto_seq, State.goto_dp, State.goto_layout, State.setDp_dp, State.setDp_seq, State.setDp_layout,
      next] at *
  · omega
  · omega
  · exact lane0 (by omega)
  · rw [pixel, group]
    by_cases lastChroma : p = 0x07
    · exact absurd ((lane0 lastChroma.le).symm.trans k) (by decide)
    · exact packed (by omega) k
  · rcases Nat.le_succ_iff.mp hn.2 with earlier | rfl
    · exact kept n ⟨hn.1, earlier⟩ (written n ⟨hn.1, earlier⟩)
    · exact new written

/-- The packed bytes of a lane are the pixel of its group (R190, R206). -/
theorem packPixel_eq_groupPixel {l : Layout} {d : Datapath} {k : BitVec 1}
    (written : ∀ n, 0x04 ≤ n ∧ n ≤ 0x0F → Written l k d n) :
    packPixel l.pixel d.r8 d.g8 d.b8 = groupPixel l d.group k := by
  have samples : samplesOf d = unpackGroup l.source d.group := written 0x04 (by decide)
  have red : d.r8 = _ := written 0x0D (by decide)
  have green : d.g8 = _ := written 0x0E (by decide)
  have blue : d.b8 = _ := written 0x0F (by decide)
  rw [red, green, blue, groupPixel, ← samples]
  rfl

/-- R150: `FETCH4` puts the group in place and enters lane 0. -/
theorem datapathInv_fetch4 {s t : State} (run : execFetch4 s = .next t) : DatapathInv t := by
  obtain ⟨rfl, -⟩ := withAccess_next run
  refine (datapathInv_iff (by simp) (by simp)).mpr ⟨by simp, by simp, fun n (hn : 0x04 ≤ n ∧ n ≤ 0x03) => ?_⟩
  omega

/-- R190: `PACK` in lane 0 packs the first pixel and begins lane 1, in lane 1 it packs the second. -/
theorem datapathInv_pack {s t : State} (inv : DatapathInv s) (phase : s.seq.phase.toNat = 0x0F)
    (run : execPack s = .next t) : DatapathInv t := by
  obtain ⟨-, packed, written⟩ := (datapathInv_iff (by omega) (by omega)).mp inv
  rw [phase] at packed written
  have pixel := packPixel_eq_groupPixel written
  rcases lane_cases s.seq.k with lane | lane
  · rw [execPack, if_pos lane] at run
    cases run
    rw [lane] at pixel
    refine (datapathInv_iff (by simp) (by simp)).mpr ⟨by simp, fun _ _ => pixel,
      fun n (hn : 0x04 ≤ n ∧ n ≤ 0x08) => ?_⟩
    have earlier := written n (by omega)
    obtain ⟨lo, hi⟩ := hn
    interval_cases n <;> exact earlier
  · rw [execPack, if_neg (by simp [lane])] at run
    cases run
    rw [lane] at pixel
    refine ⟨?_, ?_, by simp, fun _ => ⟨packed (by decide) lane, pixel⟩⟩
    · simp [PairStage]
    · simp [LaneStage]

/-- From outside the operations that work on a group, CONV goes on to a phase where nothing is claimed of the datapath. -/
theorem conv_phase_outside_group {i : Instr} {s t : State} (code : encode i = .uop s.seq.phase)
    (run : exec i s = .next t) (outside : s.seq.phase.toNat < 0x02 ∨ 0x0F < s.seq.phase.toNat) :
    t.seq.phase.toNat < 0x03 ∨ 0x10 < t.seq.phase.toNat := by
  rcases conv_next code run with ⟨hp, rfl⟩ | ⟨hp, ⟨f, -, rfl⟩ | ⟨-, rfl⟩⟩ | ⟨hp, g, -, rfl⟩ | ⟨lo, hi, d, rfl, -⟩ |
    ⟨hp, -, d, rfl, -⟩ | ⟨hp, -, d, rfl, -⟩ | ⟨hp, rfl⟩ | ⟨hp, p, rfl, rfl⟩ | ⟨hp, p, rfl, rfl⟩ | ⟨hp, rfl⟩
  · simp [hp]
  · exact .inl (Nat.zero_lt_succ _)
  · exact .inl (Nat.lt_succ_self _)
  · simp [hp] at outside
  · omega
  · simp [hp] at outside
  · simp [hp] at outside
  · simp
  · split_ifs <;> simp
  · split_ifs <;> simp
  · simp

/-- An operation of CONV keeps the datapath: `FETCH4` enters lane 0, `UNPACK` to `SATB` each write the stage the next phase
relies on, `PACK` ends a lane, and the others go where nothing is claimed. -/
theorem datapathInv_conv {i : Instr} {s t : State} (inv : DatapathInv s) (code : encode i = .uop s.seq.phase)
    (run : exec i s = .next t) : DatapathInv t := by
  have elsewhere := fun outside => datapathInv_of_phase (conv_phase_outside_group code run outside)
  cases i <;> simp only [encode, reduceCtorEq, CodeWord.uop.injEq] at code
  case idle | check | store8 | advance | nextrow | finish => exact elsewhere (by simp [← code])
  case fetch4 => exact datapathInv_fetch4 run
  case pack => exact datapathInv_pack inv (by simp [← code]) run
  all_goals cases run
  case' unpack =>
    refine datapathInv_goto_succ 0x03 inv code (by decide) rfl rfl ?_ fun _ => rfl
  case' center =>
    refine datapathInv_goto_succ 0x04 inv code (by decide) rfl rfl ?_ fun _ =>
      written_center_iff.mpr ⟨toInt_ofInt_centred _, toInt_ofInt_centred _⟩
  case' rterm =>
    refine datapathInv_goto_succ 0x05 inv code (by decide) rfl rfl ?_ fun written =>
      toAccum_redTerm (written_center_iff.mp (written 0x05 (by decide))).2
  case' gterm =>
    refine datapathInv_goto_succ 0x06 inv code (by decide) rfl rfl ?_ fun written =>
      have ⟨hu, hv⟩ := written_center_iff.mp (written 0x05 (by decide))
      toAccum_greenTerm hu hv
  case' bterm =>
    refine datapathInv_goto_succ 0x07 inv code (by decide) rfl rfl ?_ fun written =>
      toAccum_blueTerm (written_center_iff.mp (written 0x05 (by decide))).1
  case' yscale =>
    refine datapathInv_goto_succ 0x08 inv code (by decide) rfl rfl ?_ fun _ => toAccum_scaledLuma _
  case' rsum =>
    refine datapathInv_goto_succ 0x09 inv code (by decide) rfl rfl ?_ fun written =>
      toAccum_laneSum (written 0x09 (by decide)) (written 0x06 (by decide)) (redTerm_range _)
  case' gsum =>
    refine datapathInv_goto_succ 0x0A inv code (by decide) rfl rfl ?_ fun written =>
      toAccum_laneSum (written 0x09 (by decide)) (written 0x07 (by decide)) (greenTerm_range _ _)
  case' bsum =>
    refine datapathInv_goto_succ 0x0B inv code (by decide) rfl rfl ?_ fun written =>
      toAccum_laneSum (written 0x09 (by decide)) (written 0x08 (by decide)) (blueTerm_range _)
  case' satr =>
    refine datapathInv_goto_succ 0x0C inv code (by decide) rfl rfl ?_ fun written =>
      show sat8 _ = sat8 _ from congrArg sat8 (written 0x0A (by decide))
  case' satg =>
    refine datapathInv_goto_succ 0x0D inv code (by decide) rfl rfl ?_ fun written =>
      show sat8 _ = sat8 _ from congrArg sat8 (written 0x0B (by decide))
  case' satb =>
    refine datapathInv_goto_succ 0x0E inv code (by decide) rfl rfl ?_ fun written =>
      show sat8 _ = sat8 _ from congrArg sat8 (written 0x0C (by decide))
  all_goals
    rintro n ⟨lo, hi⟩ kept
    interval_cases n <;> simpa only [Written, samplesOf, Datapath.group, laneLuma] using kept

/-- Settles O40, by the five effects a step can have on the block: an accepted `START` and reset go to a phase where nothing is
claimed, a configuration write leaves the datapath, and CONV's operations keep it. -/
theorem datapathInvariantKept : Obligations.DatapathInvariantKept := by
  intro s t inv stepped
  have inv' : DatapathInv (takeEvent s) := inv
  cases blockEffect_of_step stepped with
  | unchanged same =>
    simpa only [DatapathInv, PairStage, LaneStage, PackStage, same.layout, same.seq, same.dp] using inv'
  | launch w _ _ _ after => exact after ▸ datapathInv_of_phase (by simp)
  | configure c _ after => exact after ▸ inv'
  | operate i _ code run => exact datapathInv_conv inv' code run
  | reset _ after => exact after ▸ datapathInv_of_phase (.inl (Nat.zero_lt_succ _))

end Sys2Proof.Safety
end

section
/-!
The state after reset, and what a read of a host register returns after a configuration write (R21, R50, R133 to R139).
-/

namespace Sys2Proof.Machine

/-- The configuration registers with slot `n` of 2 to 8 replaced (R24 to R30); no other slot is one of them. -/
def HostRegs.set (c : HostRegs) (n : SlotNo) (v : Word) : HostRegs :=
  match n.toNat with
  | 2 => { c with srcBase := v }
  | 3 => { c with srcStride := v }
  | 4 => { c with srcLen := v }
  | 5 => { c with dstBase := v }
  | 6 => { c with dstLen := v }
  | 7 => { c with width := v }
  | 8 => { c with height := v }
  | _ => c

/-- R133 to R139: while idle a write to one of the slots 2 to 8 replaces that register and nothing else. -/
theorem exec_decodeWrite_of_idle {s : State} {n : SlotNo} (v : Word) (idle : s.status.busy = false)
    (lo : 2 ≤ n.toNat) (hi : n.toNat ≤ 8) : exec (decodeWrite n v) s = .next (s.setCfg (s.cfg.set n v)) := by
  have stored (c : HostRegs) : writeCfg s c = s.setCfg c := by simp [writeCfg, idle]
  unfold decodeWrite HostRegs.set
  generalize n.toNat = i at lo hi
  interval_cases i <;> exact congrArg Host.Outcome.next (stored _)

theorem readSlot_set_same (s : State) {n : SlotNo} (v : Word) (lo : 2 ≤ n.toNat) (hi : n.toNat ≤ 8) :
    readSlot (s.setCfg (s.cfg.set n v)) n = v := by
  unfold readSlot HostRegs.set
  generalize n.toNat = i at lo hi
  interval_cases i <;> rfl

theorem readSlot_set_of_ne (s : State) {m n : SlotNo} (v : Word) (ne : m ≠ n) :
    readSlot (s.setCfg (s.cfg.set n v)) m = readSlot s m := by
  have ne' : m.toNat ≠ n.toNat := fun e => ne (BitVec.eq_of_toNat_eq e)
  unfold HostRegs.set
  split
  all_goals
    unfold readSlot
    split <;> simp_all

/-- Settles O10: the encoder's word decodes to the write of its own slot, and a read sees that write at that slot only. -/
theorem configWriteReadsBack : Obligations.ConfigWriteReadsBack := by
  intro s n v idle lo hi
  have decoded : decodeHt (htWord true n v) = decodeWrite n v := by simp [decodeHt]
  exact ⟨s.setCfg (s.cfg.set n v), decoded ▸ exec_decodeWrite_of_idle v idle lo hi, readSlot_set_same s v lo hi,
    fun m ne => readSlot_set_of_ne s v ne⟩

end Sys2Proof.Machine

namespace Sys2Proof.Safety

open Sys2Proof.Machine

/-- An idle block at `IDLE` has no frame under way. -/
theorem frameInv_of_idle {s : State} (idle : s.status.busy = false) (phase : s.seq.phase = 0x00#5) : FrameInv s := by
  refine ⟨?_, ?_, ?_, ?_⟩ <;> simp [idle, phase]

theorem runInv_resetOf (l : Layout) : RunInv (State.resetOf l) :=
  ⟨.of_idle statusLegal_zero rfl rfl, ⟨rfl, rfl⟩, cursorInv_of_phase_lt Nat.zero_lt_two,
    datapathInv_of_phase (.inl (Nat.zero_lt_succ _)), frameInv_of_idle rfl rfl⟩

/-- Settles O42: after reset the block is idle, where the invariants of a run ask for legal flags and canonical memory only. -/
theorem resetMeetsTheInvariants : Obligations.ResetMeetsTheInvariants :=
  ⟨runInv_resetOf Layout.default, runInv_resetOf⟩

end Sys2Proof.Safety
end

section
/-!
Memory under every event: what a host command and an operation of CONV leave of it, and that each event keeps its canonical
form (R70, R75, R144).
-/

namespace Sys2Proof.Machine

/-- What a host command that goes on leaves, without the conditions on its word (R130 to R144). -/
theorem command_next {w : HtWord} {s t : State} (h : exec (decodeHt w) s = .next t) :
    t = s ∨ (∃ v cs, t = (s.setRdata v).setOwed cs) ∨ (s.status.busy = false ∧ t = launched s) ∨
      (s.status.busy = false ∧ ∃ c, t = s.setCfg c) := by
  obtain ⟨t', ht', effect⟩ := exec_decodeHt w s
  obtain rfl : t' = t := by rw [ht'] at h; exact Host.Outcome.next.inj h
  rcases effect with ⟨rfl, -⟩ | ⟨n, -, rfl⟩ | ⟨idle, -, rfl⟩ | ⟨idle, -, -, c, rfl⟩
  · exact .inl rfl
  · exact .inr (.inl ⟨_, _, rfl⟩)
  · exact .inr (.inr (.inl ⟨idle, rfl⟩))
  · exact .inr (.inr (.inr ⟨idle, c, rfl⟩))

/-- CONV's turn that goes on performed the operation in `PHASE` (R108). -/
theorem conv_of_step {s t : State} (turn : nextEvent s = .conv) (h : step s = .next t) :
    ∃ i, encode i = .uop (takeEvent s).seq.phase ∧ exec i (takeEvent s) = .next t := by
  rcases step_next h with ⟨w, event, -⟩ | ⟨i, -, performed⟩ | ⟨a, event, -⟩ | ⟨a, b, event, -⟩ | ⟨event, -⟩
  · cases turn.symm.trans event
  · exact ⟨i, performed⟩
  · cases turn.symm.trans event
  · cases turn.symm.trans event
  · cases turn.symm.trans event

/-- What no operation of CONV changes (R80, R133), and memory, which `STORE8` alone does (R191). -/
structure ConvFrame (s t : State) : Prop where
  layout : t.layout = s.layout
  cfg : t.cfg = s.cfg
  platform : t.platform = s.platform
  launchMem : t.launchMem = s.launchMem
  agenda : t.agenda = s.agenda
  mem : t.mem = s.mem ∨ (s.seq.phase = 0x10#5 ∧ t.mem = writeBytes s.mem s.seq.dcur 0 s.dp.pairBytes)

theorem conv_frame {i : Instr} {s t : State} (code : encode i = .uop s.seq.phase) (run : exec i s = .next t) :
    ConvFrame s t := by
  rcases conv_next code run with ⟨-, rfl⟩ | ⟨-, ⟨f, -, rfl⟩ | ⟨-, rfl⟩⟩ | ⟨-, g, -, rfl⟩ | ⟨-, -, d, rfl, -⟩ |
    ⟨-, -, d, rfl, -⟩ | ⟨-, -, d, rfl, -⟩ | ⟨hp, rfl⟩ | ⟨-, p, rfl, -⟩ | ⟨-, p, rfl, -⟩ | ⟨-, rfl⟩
  any_goals exact ⟨rfl, rfl, rfl, rfl, rfl, .inl rfl⟩
  exact ⟨rfl, rfl, rfl, rfl, rfl, .inr ⟨hp, rfl⟩⟩

/-- R252: the bytes a cut-short run lands lie in its destination region, which ends within the address space. -/
theorem memAfterReset_wf {s : State} (h : s.mem.wf = true) : (memAfterReset s).wf = true := by
  unfold memAfterReset
  split_ifs with cut
  · simp only [Bool.and_eq_true, Option.isNone_iff_eq_none] at cut
    obtain ⟨-, -, -, -, -, -, -, dstFits, -⟩ := (checkFault_none_iff _).mp cut.2
    exact landBytes_wf h _ dstFits
  · exact h

end Sys2Proof.Machine

namespace Sys2Proof.Safety

open Sys2Proof.Machine

/-- Settles O38, by the event of the step: only `STORE8`, a HOST write and a reset change memory, and only an accepted `START`
the launch memory, which it sets to memory. -/
theorem memoryInvariantKept : Obligations.MemoryInvariantKept := by
  intro s t ⟨mem, launch⟩ stepped
  rcases step_next stepped with ⟨w, -, run⟩ | ⟨i, -, code, run⟩ | ⟨a, -, -, rfl⟩ | ⟨a, b, -, -, rfl⟩ | ⟨-, rfl⟩
  · rcases command_next run with rfl | ⟨v, cs, rfl⟩ | ⟨-, rfl⟩ | ⟨-, c, rfl⟩
    · exact ⟨mem, launch⟩
    · exact ⟨mem, launch⟩
    · exact ⟨mem, mem⟩
    · exact ⟨mem, launch⟩
  · have frame := conv_frame (s := takeEvent s) code run
    refine ⟨?_, frame.launchMem ▸ launch⟩
    rcases frame.mem with same | ⟨-, stored⟩
    · exact same ▸ mem
    · exact stored ▸ writeBytes_wf mem _ _ _
  · exact ⟨mem, launch⟩
  · exact ⟨Memory.write_wf mem b a.isLt, launch⟩
  · exact ⟨memAfterReset_wf mem, launch⟩

end Sys2Proof.Safety
end

section
/-!
What answers an access, and what HOST may do: where an access is stuck or refused (R79, R92), which of HOST's moves break a
duty, and that the others happen (R87, R88, R256).
-/

namespace Sys2Proof.Machine

/-- R92: an access is absent exactly when some byte is and none is a device's. -/
theorem answers_eq_absent {p : List Window} {addr : Word} {n : Nat}
    (absent : ∃ i, i < n ∧ answerAt p (byteAddr addr i) = .absent)
    (noDevice : ∀ i, i < n → answerAt p (byteAddr addr i) ≠ .device) : answers p addr n = .absent := by
  obtain ⟨i, hi, ha⟩ := absent
  cases h : answers p addr n with
  | absent => rfl
  | memory => exact absurd ((answers_eq_memory p addr n).mp h i hi) (by simp [ha])
  | device =>
    obtain ⟨j, hj, hd⟩ := (answers_eq_device p addr n).mp h
    exact absurd hd (noDevice j hj)

/-- R92: where memory does not answer and no device does, an access is stuck. -/
theorem withAccess_absent {s : State} {addr : Word} {n : Nat} (u : State)
    (absent : ∃ i, i < n ∧ answerAt s.platform ((addr.toNat + i) % 2 ^ 32) = .absent)
    (noDevice : ∀ i, i < n → answerAt s.platform ((addr.toNat + i) % 2 ^ 32) ≠ .device) :
    withAccess s addr n u = .fault .memoryNotAdmitted := by
  simp only [← byteAddr_mod] at absent noDevice
  rw [withAccess, answers_eq_absent absent noDevice]

/-- Settles O17: both operations are an access, at `SCUR` and at `DCUR`. -/
theorem unansweredAccessIsStuck : Obligations.UnansweredAccessIsStuck := fun _ =>
  ⟨withAccess_absent _, withAccess_absent _⟩

/-- Settles O15: `CHECK` finds no fault, and looks for a device in the regions next. -/
theorem launchOnDeviceIsRefused : Obligations.LaunchOnDeviceIsRefused := by
  intro s a legal region device
  have noFault := (checkFault_none_iff_not_holds s.cfg).mpr legal
  have onDevice := (launchOnDevice_iff s).mpr ⟨a, region, device⟩
  show execCheck s = _
  simp only [execCheck, noFault, onDevice, if_true]

/-- A read of the destination of a run HOST has duties on breaks duty (b) (R87). -/
theorem dutyOfRead_of_mem {s : State} {c : HostRegs} {a : Nat} (run : c ∈ dutyRuns s)
    (dst : inDestination c a = true) : dutyOfRead s a = some .leaveDestinationUnread :=
  if_pos (List.any_eq_true.mpr ⟨c, run, dst⟩)

/-- A write to the payload of a run HOST has duties on breaks duty (a) (R87). -/
theorem dutyOfWrite_of_payload {s : State} {c : HostRegs} {a : Nat} (run : c ∈ dutyRuns s)
    (payload : inPayload c a = true) : dutyOfWrite s a = some .keepSource :=
  if_pos (List.any_eq_true.mpr ⟨c, run, payload⟩)

/-- A write to the destination of a run HOST has duties on, and to the payload of none, breaks duty (c) (R87). -/
theorem dutyOfWrite_of_destination {s : State} {c : HostRegs} {a : Nat} (run : c ∈ dutyRuns s)
    (noPayload : ∀ c' ∈ dutyRuns s, inPayload c' a = false) (dst : inDestination c a = true) :
    dutyOfWrite s a = some .leaveDestinationUnwritten := by
  have none : ¬ (dutyRuns s).any (inPayload · a) = true := by simpa using noPayload
  rw [dutyOfWrite, if_neg none, if_pos (List.any_eq_true.mpr ⟨c, run, dst⟩)]

/-- The one byte of a HOST access is the byte at its address. -/
theorem withAccess_byte {s : State} {a : Word} (u : State) (mem : answerAt s.platform a.toNat = .memory) :
    withAccess s a 1 u = .next u := by
  refine withAccess_memory u fun i hi => ?_
  obtain rfl : i = 0 := by omega
  rwa [byteAddr_eq a.isLt]

theorem step_hostRead_refused {s : State} {a : Word} {d : Duty} (event : nextEvent s = .hostRead a)
    (duty : dutyOfRead s a.toNat = some d) : step s = .refused (.dutyBroken d) := by
  have duty' : dutyOfRead (takeEvent s) a.toNat = some d := duty
  simp only [step, event, happen, hostRead, duty']

theorem step_hostWrite_refused {s : State} {a : Word} {b : Byte} {d : Duty} (event : nextEvent s = .hostWrite a b)
    (duty : dutyOfWrite s a.toNat = some d) : step s = .refused (.dutyBroken d) := by
  have duty' : dutyOfWrite (takeEvent s) a.toNat = some d := duty
  simp only [step, event, happen, hostWrite, duty']

/-- R86, R87: a HOST read that breaks no duty happens where memory answers. -/
theorem step_hostRead {s : State} {a : Word} (event : nextEvent s = .hostRead a)
    (free : ∀ c ∈ dutyRuns s, inDestination c a.toNat = false) (mem : answerAt s.platform a.toNat = .memory) :
    step s = .next { s with agenda := s.agenda.tail, mdata := s.mem.read a.toNat } := by
  have duty : dutyOfRead (takeEvent s) a.toNat = none := dutyOfRead_eq_none.mpr free
  simp only [step, event, happen, hostRead, duty]
  exact withAccess_byte _ mem

/-- R87: a HOST write that breaks no duty happens where memory answers, and changes its byte only. -/
theorem step_hostWrite {s : State} {a : Word} {b : Byte} (wf : s.mem.wf = true) (event : nextEvent s = .hostWrite a b)
    (free : ∀ c ∈ dutyRuns s, inPayload c a.toNat = false ∧ inDestination c a.toNat = false)
    (mem : answerAt s.platform a.toNat = .memory) :
    ∃ m, step s = .next { s with agenda := s.agenda.tail, mem := m } ∧ m.read a.toNat = b ∧
      ∀ x, x ≠ a.toNat → m.read x = s.mem.read x := by
  have duty : dutyOfWrite (takeEvent s) a.toNat = none := dutyOfWrite_eq_none.mpr free
  refine ⟨s.mem.write a.toNat b, ?_, ?_, fun x hx => ?_⟩
  · simp only [step, event, happen, hostWrite, duty]
    exact withAccess_byte _ mem
  · rw [Memory.read_write wf, if_pos rfl]
  · rw [Memory.read_write wf, if_neg hx]

end Sys2Proof.Machine

namespace Sys2Proof.Safety

open Sys2Proof.Machine

/-- The runs HOST owes its duties on are those its moves are tested against. -/
theorem mem_dutyRuns_iff_owes {s : State} {c : HostRegs} : c ∈ dutyRuns s ↔ Owes s c := mem_dutyRuns

/-- Settles O54, one duty at a time. -/
theorem brokenDutyIsRefused : Obligations.BrokenDutyIsRefused := by
  intro s c a b owes
  have run := mem_dutyRuns_iff_owes.mpr owes
  refine ⟨fun event payload => ?keepSource, fun event noPayload dst => ?unwritten, fun event dst => ?unread⟩
  case keepSource => exact step_hostWrite_refused event (dutyOfWrite_of_payload run payload)
  case unwritten =>
    have noPayload' := fun c' run' => noPayload c' (mem_dutyRuns_iff_owes.mp run')
    exact step_hostWrite_refused event (dutyOfWrite_of_destination run noPayload' dst)
  case unread => exact step_hostRead_refused event (dutyOfRead_of_mem run dst)

/-- Settles O56: HOST's moves are tested against exactly the runs it owes duties on. -/
theorem hostMovesFreelyOutsideItsDuties : Obligations.HostMovesFreelyOutsideItsDuties := fun _ _ _ wf mem =>
  ⟨fun event free => step_hostRead event (fun c run => free c (mem_dutyRuns_iff_owes.mp run)) mem,
    fun event free => step_hostWrite wf event (fun c run => free c (mem_dutyRuns_iff_owes.mp run)) mem⟩

/-- R201: the regions of a launch `CHECK` accepts share no address. -/
theorem inDestination_eq_false_of_inSource {c : HostRegs} {a : Nat} (legal : checkFault c = none)
    (src : inSource c a = true) : inDestination c a = false := by
  obtain ⟨-, -, -, -, -, -, -, -, apart⟩ := (checkFault_none_iff c).mp legal
  simp only [inSource, inDestination, Bool.and_eq_true, Bool.and_eq_false_iff, decide_eq_true_eq,
    decide_eq_false_iff_not] at src ⊢
  omega

theorem not_owes_of_idle {s : State} (idle : s.status.busy = false) (seen : s.owed = []) (c : HostRegs) : ¬ Owes s c := by
  simp [Owes, idle, seen]

/-- Settles O57: the source of the run is apart from its destination, and a write beside the payload breaks no duty; with no
duty owed every address is free. -/
theorem hostMayTouchPaddingAndReadSource : Obligations.HostMayTouchPaddingAndReadSource := by
  intro s a b wf legal own region mem
  have legal' := (checkFault_none_iff_not_holds s.cfg).mpr legal
  have unread : ∀ c, Owes s c → inDestination c a.toNat = false := by
    intro c owes
    rcases region with src | ⟨-, idle, seen⟩
    · rw [own c owes]
      exact inDestination_eq_false_of_inSource legal' src
    · exact absurd owes (not_owes_of_idle idle seen c)
  obtain ⟨read, write⟩ := hostMovesFreelyOutsideItsDuties s a b wf mem
  refine ⟨fun event => read event unread, fun event beside => write event fun c owes => ⟨?_, unread c owes⟩⟩
  rcases beside with padding | ⟨idle, seen⟩
  · rw [own c owes]
    exact padding
  · exact absurd owes (not_owes_of_idle idle seen c)

end Sys2Proof.Safety
end

section
/-!
The regions of a run as sets of addresses: the payload row by row (R71), the group of a pair inside it (R104), and the bytes of
a pair inside the destination (R72, R105).
-/

namespace Sys2Proof.Safety

open Sys2Proof.Machine

/-- Settles O52: the row the test tries is the last of the frame that starts at or below the address, so of all rows it leaves
the smallest column. -/
theorem payloadSetIsRowByRow : Obligations.PayloadSetIsRowByRow := by
  intro c a
  simp only [inPayload, Bool.and_eq_true, decide_eq_true_eq]
  generalize hd : a - c.srcBase.toNat = d
  have tried : min (d / c.srcStride.toNat) (c.height.toNat - 1) * c.srcStride.toNat ≤ d :=
    (Nat.mul_le_mul_right _ (min_le_left _ _)).trans (Nat.div_mul_le_self _ _)
  constructor
  · rintro ⟨⟨rows, above⟩, column⟩
    have row : min (d / c.srcStride.toNat) (c.height.toNat - 1) < c.height.toNat := by omega
    exact ⟨_, _, row, column, by omega⟩
  · rintro ⟨r, x, row, column, rfl⟩
    have offset : d = r * c.srcStride.toNat + x := by omega
    refine ⟨⟨by omega, by omega⟩, ?_⟩
    rcases Nat.eq_zero_or_pos c.srcStride.toNat with zero | pos
    · rw [zero, Nat.mul_zero] at offset ⊢
      omega
    · have later : r ≤ min (d / c.srcStride.toNat) (c.height.toNat - 1) :=
        le_min ((Nat.le_div_iff_mul_le pos).mpr (by omega)) (by omega)
      have := Nat.mul_le_mul_right c.srcStride.toNat later
      omega

/-- R104: the four bytes of a group of the frame are payload. -/
theorem inPayload_groupAddr {c : HostRegs} {r p i : Nat} (row : r < c.height.toNat) (pair : 4 * p + 4 ≤ 2 * c.width.toNat)
    (hi : i < 4) : inPayload c (groupAddr c r p + i) = true :=
  (payloadSetIsRowByRow c _).mpr ⟨r, 4 * p + i, row, by omega, by unfold groupAddr; omega⟩

/-- R71, R201: in a launch `CHECK` accepts a source row holds its payload. -/
theorem inSource_of_inPayload {c : HostRegs} {a : Nat} (legal : checkFault c = none) (payload : inPayload c a = true) :
    inSource c a = true := by
  obtain ⟨-, -, -, stride, -⟩ := (checkFault_none_iff c).mp legal
  exact inPayload_inSource stride payload

/-- R201: in a launch `CHECK` accepts no payload byte is a destination byte. -/
theorem ne_destination_of_inPayload {c : HostRegs} {a j : Nat} (legal : checkFault c = none) (payload : inPayload c a = true)
    (hj : j < dstExtent c) : a ≠ c.dstBase.toNat + j := by
  have apart := inDestination_eq_false_of_inSource legal (inSource_of_inPayload legal payload)
  simp only [inDestination, Bool.and_eq_false_iff, decide_eq_false_iff_not] at apart
  omega

/-- The destination as the bytes at its offsets (R72). -/
theorem inDestination_iff {c : HostRegs} {a : Nat} :
    inDestination c a = true ↔ ∃ j, j < dstExtent c ∧ a = c.dstBase.toNat + j := by
  simp only [inDestination, Bool.and_eq_true, decide_eq_true_eq]
  exact ⟨fun ⟨lo, hi⟩ => ⟨a - c.dstBase.toNat, by omega, by omega⟩, fun ⟨j, hj, e⟩ => by omega⟩

/-- Where CONV is at a pair of the frame (R36, R37): the facts `CursorInv` gives from `FETCH4` to `ADVANCE`. -/
structure AtPair (s : State) : Prop where
  legal : checkFault s.cfg = none
  row : s.seq.row.toNat < s.cfg.height.toNat
  pair : 2 * s.seq.col.toNat + 2 ≤ s.cfg.width.toNat
  scur : s.seq.scur.toNat = groupAddr s.cfg s.seq.row.toNat s.seq.col.toNat
  dcur : s.seq.dcur.toNat = pixelAddr s.cfg s.seq.row.toNat (2 * s.seq.col.toNat)

theorem CursorInv.atPair {s : State} (h : CursorInv s) (lo : 0x02 ≤ s.seq.phase.toNat) (hi : s.seq.phase.toNat ≤ 0x11) :
    AtPair s := by
  obtain ⟨legal, inPair, -, -⟩ := h
  obtain ⟨⟨row, srow, drow⟩, col, scur, dcur⟩ := inPair ⟨lo, hi⟩
  obtain ⟨-, -, even, -⟩ := (checkFault_none_iff _).mp (legal lo)
  refine ⟨legal lo, row, by omega, by rw [scur, srow, groupAddr], ?_⟩
  rw [dcur, drow, pixelAddr]
  ring

/-- The rows before one of the frame and that row are in the destination (R72). -/
theorem rows_le_dstExtent {c : HostRegs} {r x : Nat} (row : r < c.height.toNat) (column : x ≤ c.width.toNat) :
    4 * (r * c.width.toNat + x) ≤ dstExtent c := by
  calc 4 * (r * c.width.toNat + x) ≤ 4 * (r * c.width.toNat + c.width.toNat) := by omega
    _ = 4 * c.width.toNat * (r + 1) := by ring
    _ ≤ dstExtent c := Nat.mul_le_mul_left _ row

/-- R82, R150: the group of the pair lies in the payload and its addresses do not wrap. -/
theorem AtPair.group {s : State} (h : AtPair s) {i : Nat} (hi : i < 4) :
    byteAddr s.seq.scur i = s.seq.scur.toNat + i ∧ inPayload s.cfg (s.seq.scur.toNat + i) = true := by
  have payload : inPayload s.cfg (s.seq.scur.toNat + i) = true := by
    rw [h.scur]
    exact inPayload_groupAddr h.row (by have := h.pair; omega) hi
  obtain ⟨-, -, -, -, -, -, srcFits, -⟩ := (checkFault_none_iff _).mp h.legal
  have src := inSource_of_inPayload h.legal payload
  simp only [inSource, Bool.and_eq_true, decide_eq_true_eq] at src
  exact ⟨byteAddr_eq (by omega), payload⟩

/-- R83, R191: the bytes of the pair lie in the destination and their addresses do not wrap. -/
theorem AtPair.stored {s : State} (h : AtPair s) {i : Nat} (hi : i < 8) :
    4 * (s.seq.row.toNat * s.cfg.width.toNat + 2 * s.seq.col.toNat) + i < dstExtent s.cfg ∧
      byteAddr s.seq.dcur i =
        s.cfg.dstBase.toNat + (4 * (s.seq.row.toNat * s.cfg.width.toNat + 2 * s.seq.col.toNat) + i) := by
  have inside := rows_le_dstExtent h.row h.pair
  obtain ⟨-, -, -, -, -, -, -, dstFits, -⟩ := (checkFault_none_iff _).mp h.legal
  have dcur := h.dcur
  unfold pixelAddr at dcur
  exact ⟨by omega, by rw [byteAddr_eq (by omega), dcur]; omega⟩

/-- Settles O46. -/
theorem fetchReadsOnlyPayload : Obligations.FetchReadsOnlyPayload := by
  intro s cursors phase i hi
  obtain ⟨noWrap, payload⟩ := (cursors.atPair (by simp [phase]) (by simp [phase])).group hi
  exact ⟨noWrap, noWrap ▸ payload⟩

/-- Settles O47: of CONV's operations only `STORE8` changes memory, at the bytes of its pair. -/
theorem convWritesOnlyTheDestination : Obligations.ConvWritesOnlyTheDestination := by
  rintro s t ⟨wf, -⟩ cursors turn stepped
  obtain ⟨i, code, run⟩ := conv_of_step turn stepped
  have frame := conv_frame code run
  refine ⟨fun a outside => ?_, frame.cfg, frame.layout⟩
  rcases frame.mem with same | ⟨store, stored⟩
  · rw [same, takeEvent_mem]
  · have phase : s.seq.phase = 0x10#5 := store
    have pair : AtPair s := cursors.atPair (by simp [phase]) (by simp [phase])
    rw [stored]
    refine read_writeBytes_outside wf _ _ _ _ fun j hj e => ?_
    obtain ⟨inside, address⟩ := pair.stored (i := j) hj
    rw [takeEvent_seq, Nat.zero_add, address] at e
    exact absurd (inDestination_iff.mpr ⟨_, inside, e⟩) (by simp [outside])

end Sys2Proof.Safety
end

section
/-!
The frame of a run in progress (R206): CONV's operations keep it, `STORE8` by making the eight bytes of its pair final, and HOST
keeps it because its duties keep its writes off both regions (R82, R83, R87).
-/

namespace Sys2Proof.Safety

open Sys2Proof.Machine

theorem bytesDone_of_phase_lt {s : State} (h : s.seq.phase.toNat < 0x02) : bytesDone s = 0 := if_pos h

/-- Before a pair is stored, and where a row is complete, the rows before and the pairs before are written. -/
theorem bytesDone_of_pair {s : State} (lo : 0x02 ≤ s.seq.phase.toNat) (notStored : s.seq.phase.toNat ≠ 0x11)
    (notFinish : s.seq.phase.toNat ≠ 0x13) :
    bytesDone s = 4 * (s.seq.row.toNat * s.cfg.width.toNat + 2 * s.seq.col.toNat) := by
  rw [bytesDone, if_neg (by omega), if_neg notFinish, if_neg notStored]

theorem bytesDone_of_stored {s : State} (h : s.seq.phase = 0x11#5) :
    bytesDone s = 4 * (s.seq.row.toNat * s.cfg.width.toNat + 2 * (s.seq.col.toNat + 1)) := by
  simp [bytesDone, h]

theorem bytesDone_of_finish {s : State} (h : s.seq.phase = 0x13#5) :
    bytesDone s = 4 * (s.seq.row.toNat * s.cfg.width.toNat) := by
  simp [bytesDone, h]

/-- R83: CONV never writes more than the destination region. -/
theorem bytesDone_le_dstExtent {s : State} (control : ControlInv s) (cursors : CursorInv s) :
    bytesDone s ≤ dstExtent s.cfg := by
  obtain ⟨-, -, bound⟩ := control
  obtain ⟨legal, -, rowDone, frameDone⟩ := id cursors
  by_cases before : s.seq.phase.toNat < 0x02
  · rw [bytesDone_of_phase_lt before]
    exact Nat.zero_le _
  by_cases inPair : s.seq.phase.toNat ≤ 0x11
  · have pair := cursors.atPair (by omega) inPair
    by_cases stored : s.seq.phase.toNat = 0x11
    · rw [bytesDone_of_stored (BitVec.eq_of_toNat_eq stored)]
      exact rows_le_dstExtent pair.row pair.pair
    · rw [bytesDone_of_pair (by omega) stored (by omega)]
      exact rows_le_dstExtent pair.row (by have := pair.pair; omega)
  by_cases row : s.seq.phase.toNat = 0x12
  · obtain ⟨⟨inFrame, -⟩, col⟩ := rowDone row
    rw [bytesDone_of_pair (by omega) (by omega) (by omega), col]
    exact rows_le_dstExtent inFrame le_rfl
  · have finish : s.seq.phase.toNat = 0x13 := by omega
    rw [bytesDone_of_finish (BitVec.eq_of_toNat_eq finish), frameDone finish, dstExtent]
    exact le_of_eq (by ring)

/-- The byte `i` of the pair `p` of row `r` is byte `i % 4` of the pixel of lane `i / 4` of its group (R105, R206). -/
theorem finalByte_pair (l : Layout) (c : HostRegs) (m0 : Memory) {r p i : Nat} (pair : 2 * p + 2 ≤ c.width.toNat)
    (hi : i < 8) :
    finalByte l c m0 (4 * (r * c.width.toNat + 2 * p) + i) =
      (groupPixel l (groupAt m0 (groupAddr c r p)) (BitVec.ofNat 1 (i / 4))).get (Fin.ofNat 4 i) := by
  have split : 4 * (r * c.width.toNat + 2 * p) + i = 4 * (r * c.width.toNat + (2 * p + i / 4)) + i % 4 := by omega
  have group : (2 * p + i / 4) / 2 = p := by omega
  have lane : (2 * p + i / 4) % 2 = i / 4 := by omega
  have offset : Fin.ofNat 4 (i % 4) = Fin.ofNat 4 i := by simp [Fin.ofNat]
  rw [split, finalByte_pixel l c m0 (by omega) (by omega), group, lane, offset]

@[simp] theorem pairBytes_length (d : Datapath) : d.pairBytes.length = 8 := rfl

/-- The bytes `STORE8` stores are those of the two packed pixels (R190, R191). -/
theorem pairBytes_eq {l : Layout} {d : Datapath} {g : Quad} (first : firstPixel d = groupPixel l g 0#1)
    (second : secondPixel d = groupPixel l g 1#1) {i : Nat} (hi : i < d.pairBytes.length) :
    d.pairBytes[i] = (groupPixel l g (BitVec.ofNat 1 (i / 4))).get (Fin.ofNat 4 i) := by
  rw [pairBytes_length] at hi
  interval_cases i
  · exact congrArg Quad.b0 first
  · exact congrArg Quad.b1 first
  · exact congrArg Quad.b2 first
  · exact congrArg Quad.b3 first
  · exact congrArg Quad.b0 second
  · exact congrArg Quad.b1 second
  · exact congrArg Quad.b2 second
  · exact congrArg Quad.b3 second

/-- An operation that leaves memory as it was keeps the frame, when it counts no byte as written and leaves the right group. -/
theorem frameInv_of_same_mem {s t : State} (inv : FrameInv s) (busy : s.status.busy = true) (frame : ConvFrame s t)
    (mem : t.mem = s.mem) (done : bytesDone t = bytesDone s)
    (group : 0x03 ≤ t.seq.phase.toNat ∧ t.seq.phase.toNat ≤ 0x10 → t.dp.group = groupAt s.launchMem t.seq.scur.toNat) :
    FrameInv t := by
  obtain ⟨payload, written, unwritten, -⟩ := inv
  simp only [FrameInv, frame.cfg, frame.layout, frame.launchMem, mem, done]
  refine ⟨fun _ => payload busy, fun _ j hj => ?_, fun _ => unwritten busy, group⟩
  refine written ?_ j hj
  by_contra before
  rw [bytesDone_of_phase_lt (by omega)] at hj
  omega

/-- R82, R150: `FETCH4` reads the group of the launch, since the payload is as it was then. -/
theorem readQuad_eq_groupAt {s : State} (pair : AtPair s)
    (payload : ∀ a, inPayload s.cfg a = true → s.mem.read a = s.launchMem.read a) :
    readQuad s.mem s.seq.scur = groupAt s.launchMem s.seq.scur.toNat := by
  have byte (i : Nat) (hi : i < 4) : s.mem.read (byteAddr s.seq.scur i) = s.launchMem.read (s.seq.scur.toNat + i) := by
    obtain ⟨noWrap, inside⟩ := pair.group hi
    rw [noWrap, payload _ inside]
  simp only [readQuad, groupAt, byte 0 (by decide), byte 1 (by decide), byte 2 (by decide), byte 3 (by decide), Nat.add_zero]

/-- R191, R206: `STORE8` makes the eight bytes after those written so far final, and changes no other. -/
theorem frameInv_store8 {s : State} (wf : s.mem.wf = true) (busy : s.status.busy = true) (phase : s.seq.phase = 0x10#5)
    (pair : AtPair s) (packed : PackStage s) (inv : FrameInv s) :
    FrameInv ((s.setMem (writeBytes s.mem s.seq.dcur 0 s.dp.pairBytes)).goto 0x11#5) := by
  obtain ⟨payload, written, unwritten, group⟩ := inv
  obtain ⟨first, second⟩ := packed.2 (by simp [phase])
  rw [group (by simp [phase]), pair.scur] at first second
  have before := bytesDone_of_pair (s := s) (by simp [phase]) (by simp [phase]) (by simp [phase])
  have after : bytesDone ((s.setMem (writeBytes s.mem s.seq.dcur 0 s.dp.pairBytes)).goto 0x11#5) = bytesDone s + 8 := by
    rw [before, bytesDone_of_stored rfl, State.goto_seq, State.goto_cfg, State.setMem_seq, State.setMem_cfg]
    ring
  have stored {i : Nat} (hi : i < 8) : bytesDone s + i < dstExtent s.cfg ∧
      byteAddr s.seq.dcur (0 + i) = s.cfg.dstBase.toNat + (bytesDone s + i) := by
    rw [before, Nat.zero_add]
    exact pair.stored hi
  have kept {a : Nat} (apart : ∀ i, i < 8 → a ≠ s.cfg.dstBase.toNat + (bytesDone s + i)) :
      (writeBytes s.mem s.seq.dcur 0 s.dp.pairBytes).read a = s.mem.read a :=
    read_writeBytes_outside wf _ _ _ _ fun i hi => (stored hi).2 ▸ apart i hi
  simp only [FrameInv, after, State.goto_status, State.goto_cfg, State.goto_layout, State.goto_mem, State.goto_launchMem,
    State.setMem_status, State.setMem_cfg, State.setMem_layout, State.setMem_mem, State.setMem_launchMem]
  refine ⟨fun _ a inside => ?_, fun _ j hj => ?_, fun _ j lo hi => ?_, by simp⟩
  · exact (kept fun i hi => ne_destination_of_inPayload pair.legal inside (stored hi).1).trans (payload busy a inside)
  · by_cases earlier : j < bytesDone s
    · exact (kept fun i hi => by omega).trans (written (by simp [phase]) j earlier)
    · obtain ⟨i, rfl⟩ := Nat.exists_eq_add_of_le (Nat.le_of_not_lt earlier)
      have hi : i < s.dp.pairBytes.length := by rw [pairBytes_length]; omega
      calc (writeBytes s.mem s.seq.dcur 0 s.dp.pairBytes).read (s.cfg.dstBase.toNat + (bytesDone s + i))
        _ = s.dp.pairBytes[i] := by
          rw [← (stored hi).2]
          exact read_writeBytes wf _ _ _ _ hi (by simp)
        _ = finalByte s.layout s.cfg s.launchMem (bytesDone s + i) := by
          rw [pairBytes_eq first second, before, finalByte_pair _ _ _ pair.pair hi]
  · exact (kept fun i hi => by omega).trans (unwritten busy j (by omega) hi)

/-- Every operation of CONV keeps the frame. -/
theorem frameInv_conv {i : Instr} {s t : State} (inv : RunInv s) (code : encode i = .uop s.seq.phase)
    (run : exec i s = .next t) : FrameInv t := by
  obtain ⟨control, ⟨wf, -⟩, cursors, ⟨-, -, packed⟩, inv⟩ := inv
  obtain ⟨payload, -, -, group⟩ := id inv
  have frame := conv_frame code run
  have busy (phase : s.seq.phase ≠ 0x00#5) := control.busy_of_phase_ne phase
  rcases conv_next code run with ⟨hp, rfl⟩ | ⟨hp, ⟨f, -, rfl⟩ | ⟨-, rfl⟩⟩ | ⟨hp, g, rfl, rfl⟩ | ⟨lo, hi, d, rfl, same⟩ |
    ⟨hp, -, d, rfl, same⟩ | ⟨hp, -, d, rfl, same⟩ | ⟨hp, rfl⟩ | ⟨hp, p, rfl, rfl⟩ | ⟨hp, p, rfl, rfl⟩ | ⟨hp, rfl⟩
  · exact inv
  · exact frameInv_of_idle rfl rfl
  · refine frameInv_of_same_mem inv (busy (by simp [hp])) frame rfl ?_ (by simp [cursorsAtLaunch])
    rw [bytesDone_of_phase_lt (s := s) (by simp [hp])]
    simp [bytesDone, cursorsAtLaunch]
  · refine frameInv_of_same_mem inv (busy (by simp [hp])) frame rfl (by simp [bytesDone, hp]) fun _ => ?_
    exact readQuad_eq_groupAt (cursors.atPair (by simp [hp]) (by simp [hp])) (payload (busy (by simp [hp])))
  · have next : (BitVec.ofNat 5 (s.seq.phase.toNat + 1)).toNat = s.seq.phase.toNat + 1 := by
      rw [BitVec.toNat_ofNat]
      omega
    refine frameInv_of_same_mem inv (busy (by rintro hp; simp [hp] at lo)) frame rfl ?_ fun _ => ?_
    · rw [bytesDone_of_pair (s := s) (by omega) (by omega) (by omega), bytesDone_of_pair] <;>
        simp only [State.goto_seq, next, State.setDp_seq, State.goto_cfg, State.setDp_cfg] <;> omega
    · exact same.trans (group ⟨lo, by omega⟩)
  · exact frameInv_of_same_mem inv (busy (by simp [hp])) frame rfl (by simp [bytesDone, hp])
      fun _ => same.trans (group (by simp [hp]))
  · exact frameInv_of_same_mem inv (busy (by simp [hp])) frame rfl (by simp [bytesDone, hp])
      fun _ => same.trans (group (by simp [hp]))
  · exact frameInv_store8 wf (busy (by simp [hp])) hp (cursors.atPair (by simp [hp]) (by simp [hp])) packed inv
  · have colNext : (s.seq.col + 1#32).toNat = s.seq.col.toNat + 1 := by
      have := (cursors.atPair (by simp [hp]) (by simp [hp])).pair
      bv_omega
    refine frameInv_of_same_mem inv (busy (by simp [hp])) frame rfl ?_ (by split_ifs <;> simp)
    rw [bytesDone_of_stored hp]
    split_ifs <;> simp [bytesDone, colNext]
  · obtain ⟨-, -, rowDone, -⟩ := cursors
    obtain ⟨⟨inFrame, -⟩, col⟩ := rowDone (by simp [hp])
    have rowNext : (s.seq.row + 1#32).toNat = s.seq.row.toNat + 1 := by bv_omega
    refine frameInv_of_same_mem inv (busy (by simp [hp])) frame rfl ?_ (by split_ifs <;> simp)
    rw [bytesDone_of_pair (s := s) (by simp [hp]) (by simp [hp]) (by simp [hp]), col]
    split_ifs <;> simp [bytesDone, rowNext, Nat.add_mul]
  · exact frameInv_of_idle rfl rfl

/-- R87: a HOST write that breaks no duty keeps the frame, since while busy it is outside both regions of the run. -/
theorem frameInv_hostWrite {s : State} {a : Word} (b : Byte) (inv : RunInv s) (duty : dutyOfWrite s a.toNat = none) :
    FrameInv (s.setMem (s.mem.write a.toNat b)) := by
  obtain ⟨control, ⟨wf, -⟩, cursors, -, payload, written, unwritten, group⟩ := inv
  cases idle : s.status.busy with
  | false => exact frameInv_of_idle idle (control.phase_eq_zero idle)
  | true =>
    obtain ⟨noPayload, noDestination⟩ := dutyOfWrite_none duty idle
    have kept {x : Nat} (ne : x ≠ a.toNat) : (s.mem.write a.toNat b).read x = s.mem.read x := by
      rw [Memory.read_write wf, if_neg ne]
    have destination {j : Nat} (hj : j < dstExtent s.cfg) : s.cfg.dstBase.toNat + j ≠ a.toNat := fun e =>
      absurd (inDestination_iff.mpr ⟨j, hj, e.symm⟩) (by simp [noDestination])
    have inside : bytesDone s ≤ dstExtent s.cfg := bytesDone_le_dstExtent control cursors
    refine ⟨fun busy x hx => ?_, fun phase j hj => ?_, fun busy j lo hi => ?_, group⟩
    · exact (kept (by rintro rfl; simp [noPayload] at hx)).trans (payload busy x hx)
    · exact (kept (destination (Nat.lt_of_lt_of_le hj inside))).trans (written phase j hj)
    · exact (kept (destination hi)).trans (unwritten busy j lo hi)

/-- R131: an accepted `START` makes the memory it finds the launch memory. -/
theorem frameInv_launched (s : State) : FrameInv (launched s) := by
  refine ⟨fun _ _ _ => rfl, ?_, fun _ _ _ _ => rfl, ?_⟩ <;> simp

theorem frameInv_kept {s t : State} (inv : RunInv s) (stepped : step s = .next t) : FrameInv t := by
  have inv' : RunInv (takeEvent s) := inv
  obtain ⟨control, -, -, -, frame⟩ := inv'
  rcases step_next stepped with ⟨w, -, run⟩ | ⟨i, -, code, run⟩ | ⟨a, -, -, rfl⟩ | ⟨a, b, -, duty, rfl⟩ | ⟨-, rfl⟩
  · rcases command_next run with rfl | ⟨v, cs, rfl⟩ | ⟨-, rfl⟩ | ⟨idle, c, rfl⟩
    · exact frame
    · exact frame
    · exact frameInv_launched _
    · exact frameInv_of_idle idle (control.phase_eq_zero idle)
  · exact frameInv_conv (s := takeEvent s) inv code run
  · exact frame
  · exact frameInv_hostWrite (s := takeEvent s) b inv duty
  · exact frameInv_of_idle rfl rfl

/-- Settles O41: the frame is kept by the event of the step, the other four invariants by themselves. -/
theorem runInvariantKept : Obligations.RunInvariantKept := by
  intro s t inv stepped
  obtain ⟨control, memory, cursors, datapath, -⟩ := id inv
  exact ⟨controlInvariantKept s t control stepped, memoryInvariantKept s t memory stepped,
    cursorInvariantKept s t control cursors stepped, datapathInvariantKept s t datapath stepped,
    frameInv_kept inv stepped⟩

end Sys2Proof.Safety
end

section
/-!
A whole run left alone: CONV's turns count up from the accepted `START` to `FINISH` without stopping, and leave in the
destination what the payload of the launch determines (R82, R206, R207).
-/

namespace Sys2Proof.Machine

/-- A run of one step more ends with that step. -/
theorem run_succ {M : Host.Core} {n : Nat} {s t u : M.State} (run : M.run n s = .next t) (last : M.step t = .next u) :
    M.run (n + 1) s = .next u := by
  induction n generalizing s with
  | zero =>
    cases run
    rw [Host.Core.run, last]
    rfl
  | succ n ih =>
    rw [Host.Core.run] at run ⊢
    split at run
    · next s' first => exact ih run
    · cases run
    · cases run

/-- The operations of a pair done before phase `p` in lane `k`: 14 to `PACK` in lane 0, 8 more in lane 1 (R205). -/
def pairSteps (p k : Nat) : Nat := if 0x0F < p ∨ (0x07 < p ∧ k = 1) then p + 6 else p - 2

/-- The operations of a run done before the one in `PHASE`: `CHECK`, the rows before with their `NEXTROW`, the pairs of the row
before, and those of the pair (R205, R207). -/
def convSteps (s : State) : Nat :=
  if s.seq.phase.toNat < 0x02 then 0
  else 1 + s.seq.row.toNat * (12 * s.cfg.width.toNat + 1) +
    (if s.seq.phase.toNat = 0x13 then 0
     else if s.seq.phase.toNat = 0x12 then 24 * s.seq.col.toNat
     else 24 * s.seq.col.toNat + pairSteps s.seq.phase.toNat s.seq.k.toNat)

theorem convSteps_of_pair {s : State} (lo : 0x02 ≤ s.seq.phase.toNat) (hi : s.seq.phase.toNat ≤ 0x11) :
    convSteps s = 1 + s.seq.row.toNat * (12 * s.cfg.width.toNat + 1) +
      (24 * s.seq.col.toNat + pairSteps s.seq.phase.toNat s.seq.k.toNat) := by
  rw [convSteps, if_neg (by omega), if_neg (by omega), if_neg (by omega)]

theorem convSteps_of_rowDone {s : State} (h : s.seq.phase = 0x12#5) :
    convSteps s = 1 + s.seq.row.toNat * (12 * s.cfg.width.toNat + 1) + 24 * s.seq.col.toNat := by
  simp [convSteps, h]

theorem convSteps_of_finish {s : State} (h : s.seq.phase = 0x13#5) :
    convSteps s = 1 + s.seq.row.toNat * (12 * s.cfg.width.toNat + 1) := by
  simp [convSteps, h]

theorem pairSteps_lt {p : Nat} (k : Nat) (h : p ≤ 0x11) : pairSteps p k < 24 := by
  unfold pairSteps
  split_ifs <;> omega

/-- From `UNPACK` to `SATB` an operation counts one; lane 1 has none before 0x08. -/
theorem pairSteps_succ {p k : Nat} (lo : 0x03 ≤ p) (hi : p ≤ 0x0E) (lane0 : p ≤ 0x07 → k = 0) :
    pairSteps (p + 1) k = pairSteps p k + 1 := by
  unfold pairSteps
  split_ifs <;> omega

end Sys2Proof.Machine

namespace Sys2Proof.Safety

open Sys2Proof.Machine

/-- R205, R207: an operation of a legal run other than `FINISH` counts one. -/
theorem convSteps_succ {i : Instr} {s t : State} (inv : RunInv s) (legal : checkFault s.cfg = none)
    (code : encode i = .uop s.seq.phase) (run : exec i s = .next t) (started : s.seq.phase ≠ 0x00#5)
    (notFinish : s.seq.phase ≠ 0x13#5) : convSteps t = convSteps s + 1 := by
  obtain ⟨-, -, cursors, ⟨⟨lane0, -⟩, -⟩, -⟩ := inv
  rcases conv_next code run with ⟨hp, -⟩ | ⟨hp, ⟨f, fault, -⟩ | ⟨-, rfl⟩⟩ | ⟨hp, g, -, rfl⟩ | ⟨lo, hi, d, rfl, -⟩ |
    ⟨hp, hk, d, rfl, -⟩ | ⟨hp, hk, d, rfl, -⟩ | ⟨hp, rfl⟩ | ⟨hp, p, rfl, rfl⟩ | ⟨hp, p, rfl, rfl⟩ | ⟨hp, -⟩
  · exact absurd hp started
  · cases legal.symm.trans fault
  · simp [convSteps, pairSteps, cursorsAtLaunch, hp]
  · simp [convSteps, pairSteps, hp, Nat.add_assoc]
  · have next : (BitVec.ofNat 5 (s.seq.phase.toNat + 1)).toNat = s.seq.phase.toNat + 1 := by
      rw [BitVec.toNat_ofNat]
      omega
    have counted := pairSteps_succ (k := s.seq.k.toNat) lo hi fun h => by simp [lane0 ⟨lo, h⟩]
    rw [convSteps_of_pair (s := s) (by omega) (by omega), convSteps_of_pair] <;>
      simp only [State.goto_seq, next, State.setDp_seq, State.goto_cfg, State.setDp_cfg, counted] <;> omega
  · simp [convSteps, pairSteps, hp, hk, Nat.add_assoc]
  · simp [convSteps, pairSteps, hp, hk, Nat.add_assoc]
  · simp [convSteps, pairSteps, hp, Nat.add_assoc]
  · have colNext : (s.seq.col + 1#32).toNat = s.seq.col.toNat + 1 := by
      have := (cursors.atPair (by simp [hp]) (by simp [hp])).pair
      bv_omega
    split_ifs <;> simp [convSteps, pairSteps, hp, colNext, Nat.add_assoc, Nat.mul_add]
  · obtain ⟨-, -, rowDone, -⟩ := cursors
    obtain ⟨⟨inFrame, -⟩, col⟩ := rowDone (by simp [hp])
    have rowNext : (s.seq.row + 1#32).toNat = s.seq.row.toNat + 1 := by bv_omega
    have rowSteps : 24 * s.seq.col.toNat = 12 * s.cfg.width.toNat := by omega
    split_ifs <;> simp [convSteps, pairSteps, hp, rowNext, rowSteps, Nat.add_assoc, Nat.add_mul]
  · exact absurd hp notFinish

/-- R207: the operations of a legal frame before `FINISH` are all but one of the run's. -/
theorem convSteps_finish {s : State} (cursors : CursorInv s) (phase : s.seq.phase = 0x13#5) :
    convSteps s + 1 = runLength s.cfg := by
  obtain ⟨-, -, -, frameDone⟩ := cursors
  rw [convSteps_of_finish phase, frameDone (by simp [phase]), runLength]
  ring

/-- R207: before any other phase there are fewer. -/
theorem convSteps_lt {s : State} (control : ControlInv s) (cursors : CursorInv s) (notFinish : s.seq.phase ≠ 0x13#5) :
    convSteps s + 1 < runLength s.cfg := by
  obtain ⟨-, -, bound⟩ := control
  have notFinish' : s.seq.phase.toNat ≠ 0x13 := fun e => notFinish (BitVec.eq_of_toNat_eq e)
  have whole : runLength s.cfg = 2 + s.cfg.height.toNat * (12 * s.cfg.width.toNat + 1) := by
    unfold runLength
    ring
  have rows (row : s.seq.row.toNat < s.cfg.height.toNat) :
      (s.seq.row.toNat + 1) * (12 * s.cfg.width.toNat + 1) ≤ s.cfg.height.toNat * (12 * s.cfg.width.toNat + 1) :=
    Nat.mul_le_mul_right _ row
  rw [Nat.add_mul, Nat.one_mul] at rows
  by_cases before : s.seq.phase.toNat < 0x02
  · rw [convSteps, if_pos before]
    omega
  by_cases inPair : s.seq.phase.toNat ≤ 0x11
  · have pair := cursors.atPair (by omega) inPair
    have := rows pair.row
    have := pair.pair
    have := pairSteps_lt s.seq.k.toNat inPair
    rw [convSteps_of_pair (by omega) inPair]
    omega
  · have rowPhase : s.seq.phase.toNat = 0x12 := by omega
    obtain ⟨-, -, rowDone, -⟩ := cursors
    obtain ⟨⟨inFrame, -⟩, col⟩ := rowDone rowPhase
    have := rows inFrame
    rw [convSteps_of_rowDone (BitVec.eq_of_toNat_eq rowPhase)]
    omega

/-- R206: at `FINISH` every byte of the destination is final. -/
theorem read_destination_of_finish {s : State} (inv : RunInv s) (phase : s.seq.phase = 0x13#5) {j : Nat}
    (hj : j < dstExtent s.cfg) :
    s.mem.read (s.cfg.dstBase.toNat + j) = finalByte s.layout s.cfg s.launchMem j := by
  obtain ⟨-, -, ⟨-, -, -, frameDone⟩, -, -, written, -⟩ := inv
  refine written (by simp [phase]) j ?_
  rw [bytesDone_of_finish phase, frameDone (by simp [phase])]
  calc j < dstExtent s.cfg := hj
    _ = 4 * (s.cfg.height.toNat * s.cfg.width.toNat) := by unfold dstExtent; ring

/-- R79, R92: where ordinary memory answers in both regions of a legal launch, no operation of CONV stops. -/
theorem conv_goes_on {i : Instr} {s : State} (legal : checkFault s.cfg = none) (answer : RegionsAnswer s)
    (cursors : CursorInv s) (code : encode i = .uop s.seq.phase) : ∃ t, exec i s = .next t := by
  have atPair (lo : 0x02 ≤ s.seq.phase.toNat) (hi : s.seq.phase.toNat ≤ 0x11) := cursors.atPair lo hi
  cases i <;> simp only [encode, reduceCtorEq, CodeWord.uop.injEq] at code
  case check =>
    have noDevice : launchOnDevice s = false := by
      refine Bool.eq_false_iff.mpr fun onDevice => ?_
      obtain ⟨a, region, device⟩ := (launchOnDevice_iff s).mp onDevice
      cases (answer a region).symm.trans device
    exact ⟨s.setSeq (cursorsAtLaunch s), by simp [exec, execCheck, legal, noDevice]⟩
  case fetch4 =>
    refine ⟨_, withAccess_memory _ fun j hj => ?_⟩
    obtain ⟨noWrap, payload⟩ := (atPair (by simp [← code]) (by simp [← code])).group hj
    rw [noWrap]
    exact answer _ (.inl (inSource_of_inPayload legal payload))
  case store8 =>
    refine ⟨_, withAccess_memory _ fun j hj => ?_⟩
    obtain ⟨inside, address⟩ := (atPair (by simp [← code]) (by simp [← code])).stored hj
    rw [address]
    exact answer _ (.inr (inDestination_iff.mpr ⟨_, inside, rfl⟩))
  all_goals exact ⟨_, rfl⟩

/-- An idle block about to receive `START` for a legal launch, and left alone from then on (R206). -/
structure LaunchReady (s : State) : Prop where
  agenda : s.agenda = [.command 0x1000000001#37]
  idle : s.status.busy = false
  wf : s.mem.wf = true
  legal : checkFault s.cfg = none
  answer : RegionsAnswer s

/-- The state `s` of a run in progress that began in `s₀` and is left alone: besides the invariants of every run, what only holds
because no other agent moves (R206). -/
structure LeftAlone (s₀ s : State) : Prop where
  inv : RunInv s
  status : s.status = statusStarted
  agenda : s.agenda = []
  layout : s.layout = s₀.layout
  cfg : s.cfg = s₀.cfg
  platform : s.platform = s₀.platform
  launchMem : s.launchMem = s₀.mem
  outside : ∀ a, inDestination s₀.cfg a = false → s.mem.read a = s₀.mem.read a

/-- R131: an accepted `START` meets the invariants of a run, whatever the registers held. -/
theorem runInv_launched {s : State} (wf : s.mem.wf = true) : RunInv (launched s) :=
  ⟨⟨statusLegal_started, by simp [statusStarted], by simp⟩, ⟨wf, wf⟩, cursorInv_of_phase_lt (by simp),
    datapathInv_of_phase (by simp), frameInv_launched s⟩

theorem LaunchReady.step {s : State} (h : LaunchReady s) : step s = .next (launched (takeEvent s)) := by
  have event : nextEvent s = .command 0x1000000001#37 := by rw [nextEvent, h.agenda]
  have decoded : decode (.ht 0x1000000001#37) = .ok .start := rfl
  rw [step_of_command event, runWord_of_decode_ok decoded]
  simp [exec, execStart, h.idle]

theorem LaunchReady.leftAlone {s : State} (h : LaunchReady s) : LeftAlone s (launched (takeEvent s)) where
  inv := runInv_launched h.wf
  status := rfl
  agenda := congrArg List.tail h.agenda
  layout := rfl
  cfg := rfl
  platform := rfl
  launchMem := rfl
  outside := fun _ _ => rfl

/-- R205, R207: a legal run left alone goes on until `FINISH`, and each operation counts one. -/
theorem LeftAlone.step {s₀ s : State} (start : LaunchReady s₀) (h : LeftAlone s₀ s) (notFinish : s.seq.phase ≠ 0x13#5) :
    ∃ t, step s = .next t ∧ LeftAlone s₀ t ∧ convSteps t = convSteps s + 1 := by
  obtain ⟨⟨-, idle_iff, bound⟩, memory, cursors, -⟩ := id h.inv
  have turn : nextEvent s = .conv := by rw [nextEvent, h.agenda]
  have started : s.seq.phase ≠ 0x00#5 := fun e => absurd (idle_iff.mp e) (by simp [h.status, statusStarted])
  have legal : checkFault s.cfg = none := h.cfg ▸ start.legal
  have answer : RegionsAnswer (takeEvent s) := by
    simpa only [RegionsAnswer, takeEvent_cfg, takeEvent_platform, h.cfg, h.platform] using start.answer
  obtain ⟨i, decoded⟩ : ∃ i, decode (.uop s.seq.phase) = .ok i := decodeUop_of_lt bound
  have code : encode i = .uop (takeEvent s).seq.phase := decodeUop_ok decoded
  obtain ⟨t, run⟩ := conv_goes_on (s := takeEvent s) legal answer cursors code
  have stepped : Machine.step s = .next t := by rw [step_of_conv turn, runWord_of_decode_ok decoded, run]
  have frame := conv_frame code run
  have status : t.status = s.status := by
    rcases conv_flags code run with ⟨same, -⟩ | ⟨-, f, fault, -⟩ | ⟨finish, -⟩
    · exact same
    · cases legal.symm.trans fault
    · exact absurd finish notFinish
  obtain ⟨outside, -⟩ := convWritesOnlyTheDestination s t memory cursors turn stepped
  refine ⟨t, stepped, ?_, convSteps_succ (s := takeEvent s) h.inv legal code run started notFinish⟩
  exact {
    inv := runInvariantKept s t h.inv stepped
    status := status.trans h.status
    agenda := frame.agenda.trans (congrArg List.tail h.agenda)
    layout := frame.layout.trans h.layout
    cfg := frame.cfg.trans h.cfg
    platform := frame.platform.trans h.platform
    launchMem := frame.launchMem.trans h.launchMem
    outside := fun a ha => (outside a (h.cfg ▸ ha)).trans (h.outside a ha) }

/-- R207: after `START` and `n` operations a legal run is in progress, up to the one that stands at `FINISH`. -/
theorem LaunchReady.run {s : State} (h : LaunchReady s) {n : Nat} (hn : n < runLength s.cfg) :
    ∃ u : State, Host.Core.run Sys2Proof.core (n + 1) s = .next u ∧ LeftAlone s u ∧ convSteps u = n := by
  induction n with
  | zero => exact ⟨_, run_succ rfl h.step, h.leftAlone, rfl⟩
  | succ n ih =>
    obtain ⟨u, run, alone, count⟩ := ih (by omega)
    have notFinish : u.seq.phase ≠ 0x13#5 := fun e => by
      obtain ⟨-, -, cursors, -⟩ := alone.inv
      have := convSteps_finish cursors e
      rw [alone.cfg] at this
      omega
    obtain ⟨t, last, alone', count'⟩ := alone.step h notFinish
    exact ⟨t, run_succ run last, alone', by omega⟩

/-- R206, R207: a legal run left alone ends with `FINISH` after exactly `runLength` operations. -/
theorem LaunchReady.finishes {s : State} (h : LaunchReady s) :
    ∃ u : State, LeftAlone s u ∧ u.seq.phase = 0x13#5 ∧ Host.Core.run Sys2Proof.core (1 + runLength s.cfg) s =
      .next (((takeEvent u).setStatus (statusFinished u.status)).goto 0x00#5) := by
  have length : runLength s.cfg = runLength s.cfg - 1 + 1 := by unfold runLength; omega
  obtain ⟨u, run, alone, count⟩ := h.run (n := runLength s.cfg - 1) (by omega)
  have finish : u.seq.phase = 0x13#5 := by
    by_contra notFinish
    obtain ⟨control, -, cursors, -⟩ := alone.inv
    have := convSteps_lt control cursors notFinish
    rw [alone.cfg] at this
    omega
  have turn : nextEvent u = .conv := by rw [nextEvent, alone.agenda]
  have decoded : decode (.uop u.seq.phase) = .ok .finish := by rw [finish]; rfl
  refine ⟨u, alone, finish, ?_⟩
  rw [Nat.add_comm, length]
  refine run_succ run ?_
  show Machine.step u = _
  rw [step_of_conv turn, runWord_of_decode_ok decoded]
  rfl

/-- R206: what a legal run left alone leaves at each byte of the destination. -/
theorem LaunchReady.destination {s : State} (h : LaunchReady s) :
    ∃ t : State, Host.Core.run Sys2Proof.core (1 + runLength s.cfg) s = .next t ∧
      ∀ j, j < dstExtent s.cfg → t.mem.read (s.cfg.dstBase.toNat + j) = finalByte s.layout s.cfg s.mem j := by
  obtain ⟨u, alone, finish, run⟩ := h.finishes
  refine ⟨_, run, fun j hj => ?_⟩
  have final := read_destination_of_finish alone.inv finish (j := j) (alone.cfg ▸ hj)
  rwa [alone.cfg, alone.layout, alone.launchMem] at final

/-- R82, R206: the final bytes of a legal frame depend on the payload bytes alone. -/
theorem finalByte_congr {l : Layout} {c : HostRegs} {m m' : Memory} {j : Nat} (legal : checkFault c = none)
    (same : ∀ a, inPayload c a = true → m.read a = m'.read a) (hj : j < dstExtent c) :
    finalByte l c m j = finalByte l c m' j := by
  obtain ⟨width, -, even, -⟩ := (checkFault_none_iff c).mp legal
  have row : j / 4 / c.width.toNat < c.height.toNat := by
    refine Nat.div_lt_of_lt_mul (Nat.div_lt_of_lt_mul ?_)
    rwa [dstExtent, Nat.mul_assoc] at hj
  have column : j / 4 % c.width.toNat < c.width.toNat := Nat.mod_lt _ width
  have byte (i : Nat) (hi : i < 4) := same _ (inPayload_groupAddr (i := i) row
    (show 4 * (j / 4 % c.width.toNat / 2) + 4 ≤ 2 * c.width.toNat by omega) hi)
  have group : groupAt m (groupAddr c (j / 4 / c.width.toNat) (j / 4 % c.width.toNat / 2)) =
      groupAt m' (groupAddr c (j / 4 / c.width.toNat) (j / 4 % c.width.toNat / 2)) := by
    rw [groupAt, groupAt, Quad.mk.injEq]
    exact ⟨byte 0 (by decide), byte 1 (by decide), byte 2 (by decide), byte 3 (by decide)⟩
  simp only [finalByte, group]

/-- Settles O48: each run leaves the final bytes of its own payload, which the two share. -/
theorem resultDependsOnlyOnPayload : Obligations.ResultDependsOnlyOnPayload := by
  intro s s' layout cfg noFault same agenda agenda' idle idle' wf wf' answer answer'
  have legal := (checkFault_none_iff_not_holds s.cfg).mpr noFault
  obtain ⟨t, run, final⟩ := LaunchReady.destination ⟨agenda, idle, wf, legal, answer⟩
  obtain ⟨t', run', final'⟩ := LaunchReady.destination ⟨agenda', idle', wf', cfg ▸ legal, answer'⟩
  rw [← cfg, ← layout] at final'
  refine ⟨t, t', run, cfg ▸ run', fun a inside => ?_⟩
  obtain ⟨j, hj, rfl⟩ := inDestination_iff.mp inside
  rw [final j hj, final' j hj, finalByte_congr legal same hj]

end Sys2Proof.Safety
end

section
/-!
The decoder against the encoder and against the host command map (R106, R108, R112, R115). A host-transaction word is its three
fields, and of its bits only `rw`, `n` and the lowest data bit decide which command it is, for the decoder and for the rows alike.
-/

namespace Sys2Proof

/-- A write of slot `n` decodes by the write rows of R115. -/
@[simp] theorem decodeHt_write (n : SlotNo) (v : Word) : decodeHt (htWord true n v) = decodeWrite n v := by
  simp [decodeHt]

/-- A read of slot `n` decodes to `REGRD n`, whatever its data (R106, R115). -/
@[simp] theorem decodeHt_read (n : SlotNo) (v : Word) : decodeHt (htWord false n v) = .regrd n := by
  simp [decodeHt]

theorem decodeWrite_of_wrignR10_wf {n : SlotNo} {v : Word} (wf : (Instr.wrignR10 n v).wf = true) :
    decodeWrite n v = .wrignR10 n v := by
  have slot : n = 10#4 ∨ n = 11#4 := by simpa [Instr.wf] using wf
  rcases slot with rfl | rfl <;> rfl

theorem decodeWrite_of_wrignR12_wf {n : SlotNo} {v : Word} (wf : (Instr.wrignR12 n v).wf = true) :
    decodeWrite n v = .wrignR12 n v := by
  have slot : ((n = 12#4 ∨ n = 13#4) ∨ n = 14#4) ∨ n = 15#4 := by simpa [Instr.wf] using wf
  rcases slot with ((rfl | rfl) | rfl) | rfl <;> rfl

/-- Settles O1: the fields of a host-transaction word are read back, and each slot's number and each code is that of its own
row. -/
theorem decodeEncodeAgree : Obligations.DecodeEncodeAgree := by
  intro i wf
  cases i with
  | regrd n => exact congrArg Except.ok (decodeHt_read n 0#32)
  | start => exact congrArg Except.ok (decodeHt_write 0#4 1#32)
  | ctrlnop => exact congrArg Except.ok (decodeHt_write 0#4 0#32)
  | wrignStatus v | wrSrcBase v | wrSrcStride v | wrSrcLen v | wrDstBase v | wrDstLen v | wrWidth v | wrHeight v
  | wrignLayout v => exact congrArg Except.ok (decodeHt_write _ v)
  | wrignR10 n v => exact congrArg Except.ok ((decodeHt_write n v).trans (decodeWrite_of_wrignR10_wf wf))
  | wrignR12 n v => exact congrArg Except.ok ((decodeHt_write n v).trans (decodeWrite_of_wrignR12_wf wf))
  | idle | check | fetch4 | unpack | center | rterm | gterm | bterm | yscale | rsum | gsum | bsum | satr | satg | satb | pack
  | store8 | advance | nextrow | finish => rfl

/-- A host-transaction word is the word of its three fields (R106). -/
theorem htWord_fields (w : HtWord) : htWord (htWrite w) (htSlot w) (htData w) = w := by
  apply BitVec.eq_of_toNat_eq
  rw [htWord_toNat, htWrite, htSlot, htData, BitVec.extractLsb'_toNat, BitVec.extractLsb'_toNat, BitVec.getLsbD,
    Nat.toNat_testBit, Nat.shiftRight_eq_div_pow]
  have := w.isLt
  omega

/-- The decoder reads `WRIGN.R10` at slots 10 and 11 only, and `WRIGN.R12` only above them (R115). -/
theorem decodeWrite_wf (n : SlotNo) (v : Word) : (decodeWrite n v).wf = true := by
  unfold decodeWrite
  split
  case h_1 => split <;> rfl
  case h_11 slot => simp [Instr.wf, ← BitVec.toNat_inj, slot]
  case h_12 slot => simp [Instr.wf, ← BitVec.toNat_inj, slot]
  case h_13 =>
    have := n.isLt
    simp only [imp_false, Instr.wf, Bool.or_eq_true, decide_eq_true_eq, ← BitVec.toNat_inj, BitVec.toNat_ofNat] at *
    omega
  all_goals rfl

theorem decodeHt_wf (w : HtWord) : (decodeHt w).wf = true := by
  unfold decodeHt
  split
  · exact decodeWrite_wf _ _
  · rfl

/-- The bits of an `HT` word that select its row: `rw`, `n` and, in a `CTRL` write, the lowest data bit (R115). -/
def keyBits : HtWord := 0x1F00000001#37

/-- The word with the given key bits and no other bit set. -/
def keyWord (b : Bool) (n : SlotNo) (bit : Bool) : HtWord := htWord b n ((BitVec.ofBool bit).setWidth 32)

theorem htWord_and_keyBits (b : Bool) (n : SlotNo) (v : Word) : htWord b n v &&& keyBits = keyWord b n (v.getLsbD 0) := by
  have key : keyBits = (1#1 ++ 15#4) ++ 1#32 := by decide
  have high (b : Bool) (n : SlotNo) : (BitVec.ofBool b ++ n) &&& (1#1 ++ 15#4) = BitVec.ofBool b ++ n := by
    revert b n; decide
  rw [key, htWord, BitVec.and_append, high, BitVec.and_one_eq_setWidth_ofBool_getLsbD]
  rfl

/-- No row of R115 masks any other bit. -/
theorem selects_and_keyBits {r : Row} (row : r ∈ htRows) (w : HtWord) : r.selects (w &&& keyBits) = r.selects w := by
  have masked : ∀ r ∈ htRows, keyBits &&& BitVec.ofNat 37 r.mask = BitVec.ofNat 37 r.mask := by decide
  rw [Row.selects, BitVec.and_assoc, masked r row, Row.selects]

/-- The command decoded from a write depends on the slot, and for `CTRL` on the lowest data bit (R22, R115). -/
theorem decodeWrite_mnemonic_congr (n : SlotNo) {v v' : Word} (bit : v.getLsbD 0 = v'.getLsbD 0) :
    (decodeWrite n v).mnemonic = (decodeWrite n v').mnemonic := by
  unfold decodeWrite
  rw [bit]
  split
  case h_1 => split <;> rfl
  all_goals rfl

/-- The decoder's command depends on no other bit either. -/
theorem decodeHt_mnemonic_and_keyBits (w : HtWord) : (decodeHt (w &&& keyBits)).mnemonic = (decodeHt w).mnemonic := by
  rw [← htWord_fields w, htWord_and_keyBits, keyWord]
  cases htWrite w with
  | true =>
    rw [decodeHt_write, decodeHt_write]
    exact decodeWrite_mnemonic_congr _ (by simp)
  | false => rw [decodeHt_read, decodeHt_read]

theorem keyWord_selects_iff_mnemonic : ∀ (b : Bool) (n : SlotNo) (bit : Bool), ∀ r ∈ htRows,
    r.selects (keyWord b n bit) = true ↔ (decodeHt (keyWord b n bit)).mnemonic = r.mnemonic := by decide

/-- R115: a word selects a row of the map exactly when it decodes to the row's command; it is enough to try the 64 key words. -/
theorem selects_iff_mnemonic {r : Row} (row : r ∈ htRows) (w : HtWord) :
    r.selects w = true ↔ (decodeHt w).mnemonic = r.mnemonic := by
  rw [← selects_and_keyBits row, ← decodeHt_mnemonic_and_keyBits, ← htWord_fields w, htWord_and_keyBits]
  exact keyWord_selects_iff_mnemonic _ _ _ r row

/-- Every command the decoder reads has a row of the map (R112, R115). -/
theorem exists_row_decodeHt (w : HtWord) : ∃ r ∈ htRows, (decodeHt w).mnemonic = r.mnemonic := by
  have keyed : ∀ b n bit, ∃ r ∈ htRows, (decodeHt (keyWord b n bit)).mnemonic = r.mnemonic := by decide
  rw [← decodeHt_mnemonic_and_keyBits, ← htWord_fields w, htWord_and_keyBits]
  exact keyed _ _ _

/-- The rows of the map have different mnemonics (R115). -/
theorem htRows_mnemonic_inj : ∀ r ∈ htRows, ∀ r' ∈ htRows, r.mnemonic = r'.mnemonic → r = r' := by
  decide

/-- Settles O2: a word selects exactly the rows with its command's mnemonic, and there is one of those. -/
theorem everyHostWordSelectsOneRow : Obligations.EveryHostWordSelectsOneRow := by
  intro w
  obtain ⟨r, row, command⟩ := exists_row_decodeHt w
  refine ⟨decodeHt_wf w, r, row, (selects_iff_mnemonic row w).mpr command, command, fun r' row' selected => ?_⟩
  exact htRows_mnemonic_inj r' row' r row (((selects_iff_mnemonic row' w).mp selected).symm.trans command)

/-- Settles O4: the words are evaluated. -/
theorem sampleWordsDecode : Obligations.SampleWordsDecode := ⟨rfl, rfl, rfl, rfl, rfl, rfl, rfl⟩

end Sys2Proof
end

section
/-!
Reserved `PHASE` codes, and the one fault an instruction can end in (R92, R111).
-/

namespace Sys2Proof.Machine

theorem withAccess_fault {s t : State} {addr : Word} {n : Nat} {f : Fault} (h : withAccess s addr n t = .fault f) :
    f = .memoryNotAdmitted := by
  unfold withAccess at h
  split at h <;> cases h
  rfl

/-- R92: memory that does not answer is the only fault of an instruction; only `FETCH4` and `STORE8` meet it. -/
theorem exec_fault {i : Instr} {s : State} {f : Fault} (h : exec i s = .fault f) : f = .memoryNotAdmitted := by
  cases i
  case fetch4 => exact withAccess_fault h
  case store8 => exact withAccess_fault h
  case check =>
    simp only [exec, execCheck] at h
    split at h
    · cases h
    · split at h <;> cases h
  all_goals cases h

/-- Settles O3: a reserved code does not decode, every other does, and no instruction's fault names a code. -/
theorem reservedPhaseIsStuck : Obligations.ReservedPhaseIsStuck := by
  intro s turn
  rw [step_of_conv turn]
  refine ⟨fun reserved => ?_, fun operation c stuck => ?_⟩
  · rw [runWord, decode, decodeUop_reserved reserved]
  · obtain ⟨i, decoded⟩ := decodeUop_of_lt operation
    rw [runWord_of_decode_ok (c := .uop s.seq.phase) decoded] at stuck
    cases exec_fault stuck

end Sys2Proof.Machine
end

section
/-!
The build-time layout: its parameters (R5, R113) and the wiring of a group (R101, R102).
-/

namespace Sys2Proof

theorem paramsOf_wf (l : Layout) : (paramsOf l).wf = true := by
  rcases l with ⟨_ | _ | _ | _, _ | _⟩ <;> rfl

theorem buildLayout_paramsOf (l : Layout) : buildLayout (paramsOf l) = some l := by
  rcases l with ⟨_ | _ | _ | _, _ | _⟩ <;> rfl

/-- R113: a layout is built only from one of the eight rows of R101 and R103 that read back as the parameters given. -/
theorem paramsOf_of_buildLayout {p : LayoutParams} {l : Layout} (h : buildLayout p = some l) : paramsOf l = p := by
  rcases p with ⟨y, u, b⟩
  simp only [buildLayout] at h
  split at h
  · next source pixel =>
    split at source <;> cases source <;> (split at pixel <;> cases pixel) <;> cases h <;> rfl
  · cases h

/-- Settles O19: `paramsOf` and `buildLayout` undo each other, and the parameters of a layout are legal. -/
theorem onlyLegalParametersBuild : Obligations.OnlyLegalParametersBuild := by
  intro p l
  constructor
  · intro built
    obtain rfl := paramsOf_of_buildLayout built
    exact ⟨paramsOf_wf l, rfl⟩
  · rintro ⟨-, rfl⟩
    exact buildLayout_paramsOf l

namespace Machine

/-- R101, R102: no two samples share an offset. -/
theorem positions_nodup (o : SourceOrder) : [y0Pos o, y1Pos o, uPos o, vPos o].Nodup := by
  cases o <;> decide

/-- Settles O20: the positions of the four samples differ, so they are all four offsets. -/
theorem groupPositionsArePermutation : Obligations.GroupPositionsArePermutation := by
  intro o i
  have bijective := Finite.injective_iff_bijective.mp (List.nodup_iff_injective_get.mp (positions_nodup o))
  obtain ⟨j, found, only⟩ := bijective.existsUnique i
  exact ⟨j, found.symm, fun j' h => only j' h.symm⟩

end Machine

end Sys2Proof
end

section
/-!
The host commands (R130 to R144): what a read returns, what `START` and the configuration writes do while idle and while busy,
and what no command touches. The configuration registers hold still while a run goes on (R133, R254).
-/

namespace Sys2Proof.Machine

/-- `LAYOUT` as a number (R31). -/
theorem layoutWord_toNat (l : Layout) :
    (layoutWord l).toNat = (paramsOf l).yIdx + 2 * (paramsOf l).uIdx + 4 * (paramsOf l).bIdx := by
  rcases l with ⟨_ | _ | _ | _, _ | _⟩ <;> rfl

/-- R130: the slots above `LAYOUT` read 0. -/
theorem readSlot_of_unassigned (s : State) {n : SlotNo} (unassigned : 10 ≤ n.toNat) : readSlot s n = 0#32 := by
  unfold readSlot
  generalize n.toNat = i at unassigned
  split
  case h_11 => rfl
  all_goals omega

/-- Settles O6, slot by slot; the two words of fields as numbers. -/
theorem regrdReturnsRegister : Obligations.RegrdReturnsRegister := by
  intro s n
  refine ⟨readSlot s n, owedAfterRead s n, rfl, ?ctrl, ?status, ?srcBase, ?srcStride, ?srcLen, ?dstBase, ?dstLen, ?width,
    ?height, ?layout, readSlot_of_unassigned s⟩
  case status => rintro rfl; exact statusWord_toNat s.status
  case layout => rintro rfl; exact layoutWord_toNat s.layout
  all_goals rintro rfl; rfl

theorem exec_start_of_idle {s : State} (idle : s.status.busy = false) : exec .start s = .next (launched s) := by
  simp [exec, execStart, idle]

theorem exec_start_of_busy {s : State} (busy : s.status.busy = true) : exec .start s = .next s := by
  simp [exec, execStart, busy]

/-- Settles O7: an accepted `START` leaves `launched s`. -/
theorem startBeginsRunOnlyWhenIdle : Obligations.StartBeginsRunOnlyWhenIdle := fun s =>
  ⟨fun idle => ⟨s.mem, s.cfg :: s.owed, exec_start_of_idle idle⟩, exec_start_of_busy⟩

/-- Settles O8: the meaning of each of these commands is to leave the state as it was. -/
theorem ignoredWritesChangeNothing : Obligations.IgnoredWritesChangeNothing := fun _ _ _ => ⟨rfl, rfl, rfl, rfl, rfl⟩

theorem writeCfg_of_idle {s : State} (idle : s.status.busy = false) (c : HostRegs) : writeCfg s c = { s with cfg := c } := by
  simp [writeCfg, idle, State.setCfg]

theorem writeCfg_of_busy {s : State} (busy : s.status.busy = true) (c : HostRegs) : writeCfg s c = s := by
  simp [writeCfg, busy]

/-- Settles O9: all seven commands are `writeCfg` of the registers with one of them replaced. -/
theorem configWritesOnlyWhenIdle : Obligations.ConfigWritesOnlyWhenIdle := by
  intro s v
  refine ⟨fun idle => ?stored, fun busy => ?dropped⟩
  case stored =>
    have stored (c : HostRegs) : Host.Outcome.next (writeCfg s c) = (.next { s with cfg := c } : Result) :=
      congrArg _ (writeCfg_of_idle idle c)
    exact ⟨stored _, stored _, stored _, stored _, stored _, stored _, stored _⟩
  case dropped =>
    have dropped (c : HostRegs) : Host.Outcome.next (writeCfg s c) = (.next s : Result) :=
      congrArg _ (writeCfg_of_busy busy c)
    exact ⟨dropped _, dropped _, dropped _, dropped _, dropped _, dropped _, dropped _⟩

/-- Settles O11: every word's command completes, and each of the four effects a command can have keeps all of this. -/
theorem hostCommandsNeverFail : Obligations.HostCommandsNeverFail := by
  intro w s
  obtain ⟨t, run, -⟩ := exec_decodeHt w s
  refine ⟨t, run, ?_⟩
  rcases command_next run with rfl | ⟨v, cs, rfl⟩ | ⟨-, rfl⟩ | ⟨-, c, rfl⟩
  all_goals exact ⟨rfl, rfl, rfl, rfl, rfl, rfl⟩

/-- Settles O51: of the five effects only a configuration write and reset change the registers, and the write needs
`BUSY = 0`. -/
theorem configConstantWhileBusy : Obligations.ConfigConstantWhileBusy := by
  intro s t stepped busy notReset
  cases blockEffect_of_step stepped with
  | unchanged same => exact same.cfg
  | launch w _ _ _ after => exact after ▸ launched_cfg (takeEvent s)
  | configure c idle _ => exact absurd (idle.symm.trans busy) Bool.false_ne_true
  | operate i _ code run => exact (conv_frame code run).cfg
  | reset event _ => exact absurd event notReset

end Sys2Proof.Machine
end

section
/-!
The front of the pipeline: the group `FETCH4` reads (R150) and the wiring by which `UNPACK` routes it (R102, R151).
-/

namespace Sys2Proof.Machine

/-- R13, R74: a read of four bytes takes each at its offset modulo the address space, as it is. -/
theorem readQuad_mod (m : Memory) (addr : Word) :
    readQuad m addr = ⟨m.read ((addr.toNat + 0) % 2 ^ 32), m.read ((addr.toNat + 1) % 2 ^ 32),
      m.read ((addr.toNat + 2) % 2 ^ 32), m.read ((addr.toNat + 3) % 2 ^ 32)⟩ := by
  rw [readQuad, byteAddr_mod, byteAddr_mod, byteAddr_mod, byteAddr_mod]

/-- Settles O16: memory answers at all four addresses, so the access happens, and the group it reads is `readQuad_mod`'s. -/
theorem fetch4ReadsTheGroup : Obligations.Fetch4ReadsTheGroup := by
  intro s answer
  have happens : exec .fetch4 s = .next _ := withAccess_memory _ fun i hi => by
    rw [byteAddr_mod]
    exact answer i hi
  rw [happens, readQuad_mod]
  rfl

/-- R102: the positions of the table of R101, computed from the layout parameters. -/
theorem positions_of_params (l : Layout) :
    (y0Pos l.source).val = (paramsOf l).yIdx ∧ (y1Pos l.source).val = (paramsOf l).yIdx + 2 ∧
      (uPos l.source).val = 1 - (paramsOf l).yIdx + 2 * (paramsOf l).uIdx ∧
      (vPos l.source).val = (3 - (paramsOf l).yIdx + 2 * (paramsOf l).uIdx) % 4 := by
  rcases l with ⟨_ | _ | _ | _, _⟩ <;> simp [y0Pos, y1Pos, uPos, vPos, paramsOf]

/-- Settles O18: `UNPACK` takes the samples at the positions of the source order, and those are the ones R102 computes. -/
theorem unpackRoutesByLayout : Obligations.UnpackRoutesByLayout := by
  intro s
  obtain ⟨luma0, luma1, chromaU, chromaV⟩ := positions_of_params s.layout
  exact ⟨_, _, _, _, luma0, luma1, chromaU, chromaV, rfl⟩

end Sys2Proof.Machine
end

section
/-!
The colour matrix operation by operation: centring, the offset terms and the scaled luma are exact, and a shifted sum is the
floor of the exact sum (R160 to R167, R170).
-/

namespace Sys2Proof.Machine

/-- Settles O21: a centred byte fits 8 signed bits. -/
theorem centerSubtracts128 : Obligations.CenterSubtracts128 := fun s =>
  ⟨_, _, rfl, toInt_ofInt_centred s.dp.u, toInt_ofInt_centred s.dp.v⟩

/-- R160: centring reaches every signed byte, so what is exact of centred samples is exact of any contents of `SU` and
`SV`. -/
theorem exists_toInt_eq_centred (b : Byte) : ∃ c : Byte, b.toInt = centred c := by
  have range := byte_toInt_range b
  refine ⟨BitVec.ofInt 8 (b.toInt + 128), ?_⟩
  rw [centred, chromaMid, BitVec.toNat_ofInt]
  omega

/-- Settles O22: the contents of `SU` and `SV` are centred samples, and the terms of those are exact. -/
theorem chromaTermsAreExact : Obligations.ChromaTermsAreExact := by
  intro s
  obtain ⟨u, hu⟩ := exists_toInt_eq_centred s.dp.su
  obtain ⟨v, hv⟩ := exists_toInt_eq_centred s.dp.sv
  refine ⟨⟨_, rfl, ?red⟩, ⟨_, rfl, ?green⟩, ⟨_, rfl, ?blue⟩⟩
  case red => rw [toAccum_redTerm hv, hv, redTerm, bias, coefVR]
  case green => rw [toAccum_greenTerm hu hv, hu, hv, greenTerm, bias, coefVG, coefUG]
  case blue => rw [toAccum_blueTerm hu, hu, blueTerm, bias, coefUB]

/-- Settles O23: the scaled luma of the lane's sample fits an accumulator. -/
theorem yscaleFloorsAndScales : Obligations.YscaleFloorsAndScales := fun s =>
  ⟨_, rfl, toAccum_scaledLuma (laneLuma s.dp s.seq.k)⟩

/-- R165 to R167: whatever two accumulators hold, their exact sum shifted by 20 fits one again, and is the floor. -/
theorem toAccum_shiftedSum_floor (ys term : Accum) :
    2 ^ 20 * (toAccum (shiftedSum ys term)).toInt ≤ ys.toInt + term.toInt ∧
      ys.toInt + term.toInt < 2 ^ 20 * ((toAccum (shiftedSum ys term)).toInt + 1) := by
  have luma := accum_toInt_range ys
  have offset := accum_toInt_range term
  have floor := asr20_spec (ys.toInt + term.toInt)
  rw [toAccum_toInt] <;> unfold shiftedSum <;> omega

/-- Settles O24: the three operations write the shifted sum of `YS` and their term. -/
theorem sumsShiftByFloor : Obligations.SumsShiftByFloor := fun _ =>
  ⟨⟨_, rfl, toAccum_shiftedSum_floor _ _⟩, ⟨_, rfl, toAccum_shiftedSum_floor _ _⟩, ⟨_, rfl, toAccum_shiftedSum_floor _ _⟩⟩

end Sys2Proof.Machine
end

section
/-!
The exact ranges of the intermediates over all bytes (R168). The terms are linear in the centred chroma and the shift is
monotone, so each range follows from those it is computed from, and each bound is attained at bytes 0 or 255.
-/

namespace Sys2Proof.Machine

theorem redTerm_exactRange (v : Byte) : -213687168 ≤ redTerm (centred v) ∧ redTerm (centred v) ≤ 213062217 := by
  have := centred_range v
  unfold redTerm bias coefVR
  omega

theorem greenTerm_exactRange (u v : Byte) :
    -159811307 ≤ greenTerm (centred u) (centred v) ∧ greenTerm (centred u) (centred v) ≤ 162122368 := by
  have := centred_range u
  have := centred_range v
  unfold greenTerm bias coefVG coefUG
  omega

/-- The range of a lane's sum, from that of its term (R168). -/
theorem laneSum_range (y : Byte) {x lo hi : Int} (term : lo ≤ x ∧ x ≤ hi) :
    lo ≤ scaledLuma y + x ∧ scaledLuma y + x ≤ 291709538 + hi := by
  have := scaledLuma_range y
  omega

/-- The range of a shifted value: the shift is monotone (R170). -/
theorem asr20_range {x lo hi : Int} (range : lo ≤ x ∧ x ≤ hi) : asr20 lo ≤ asr20 x ∧ asr20 x ≤ asr20 hi :=
  ⟨Int.ediv_le_ediv (by decide) range.1, Int.ediv_le_ediv (by decide) range.2⟩

/-- Settles O26: the ranges follow from one another in the order of the table, and the bytes that attain a bound are
evaluated. -/
theorem intermediateRanges : Obligations.IntermediateRanges := by
  refine ⟨fun y u v => ?bounds, ⟨0#8, 0#8, 0#8, by decide⟩, ⟨255#8, 255#8, 255#8, by decide⟩, ⟨255#8, 0#8, 0#8, by decide⟩,
    ⟨0#8, 255#8, 255#8, by decide⟩⟩
  case bounds =>
    have luma : -16 ≤ (y.toNat : Int) - 16 ∧ (y.toNat : Int) - 16 ≤ 239 := by omega
    have red := laneSum_range y (redTerm_exactRange v)
    have green := laneSum_range y (greenTerm_exactRange u v)
    have blue := laneSum_range y (blueTerm_range u)
    obtain ⟨uLow, uHigh⟩ := centred_range u
    exact ⟨⟨uLow, uHigh, centred_range v⟩, luma, redTerm_exactRange v, greenTerm_exactRange u v, blueTerm_range u,
      scaledLuma_range y, red, green, blue, asr20_range red, asr20_range green, asr20_range blue⟩

end Sys2Proof.Machine
end

section
/-!
CONV left alone from `CENTER` to `SATB`: the four operations of a pair, the seven of a lane, and the colour function they
leave in `R8`, `G8`, `B8` (R171).
-/

namespace Sys2Proof.Machine

/-- The datapath after `CENTER`, `RTERM`, `GTERM` and `BTERM` (R160 to R163). -/
def afterChroma (d : Datapath) : Datapath :=
  let su : Byte := BitVec.ofInt 8 (centred d.u)
  let sv : Byte := BitVec.ofInt 8 (centred d.v)
  { d with
    su := su, sv := sv
    rt := toAccum (redTerm sv.toInt)
    gt := toAccum (greenTerm su.toInt sv.toInt)
    bt := toAccum (blueTerm su.toInt) }

/-- The datapath after `YSCALE`, `RSUM`, `GSUM` and `BSUM` in lane `k` (R164 to R167). -/
def afterSums (d : Datapath) (k : BitVec 1) : Datapath :=
  let ys : Accum := toAccum (scaledLuma (laneLuma d k))
  { d with
    ys := ys
    rs := toAccum (shiftedSum ys d.rt)
    gs := toAccum (shiftedSum ys d.gt)
    bs := toAccum (shiftedSum ys d.bt) }

/-- The datapath after `SATR`, `SATG` and `SATB` (R181 to R183). -/
def afterSaturation (d : Datapath) : Datapath :=
  { d with r8 := sat8 d.rs.toInt, g8 := sat8 d.gs.toInt, b8 := sat8 d.bs.toInt }

/-- With nothing on the agenda a step is CONV's turn, and taking the turn changes nothing. -/
theorem step_of_agenda_nil {s t : State} {i : Instr} (alone : s.agenda = []) (decoded : decode (.uop s.seq.phase) = .ok i)
    (performed : exec i s = .next t) : step s = .next t := by
  have turn : nextEvent s = .conv := by rw [nextEvent, alone]
  have taken : takeEvent s = s := by rw [takeEvent_eq, alone, List.tail_nil, ← alone]
  rw [step_of_conv turn, taken, runWord_of_decode_ok decoded, performed]

/-- An operation that writes the datapath and `PHASE` carries a run on from one such write to the next; what the earlier one
wrote to either is replaced. -/
theorem run_operation {s₀ s : State} {d d' : Datapath} {c c' : PhaseCode} {n : Nat} (i : Instr) (alone : s.agenda = [])
    (run : Host.Core.run Sys2Proof.core n s₀ = .next ((s.setDp d).goto c)) (decoded : decode (.uop c) = .ok i)
    (performed : exec i ((s.setDp d).goto c) = .next ((((s.setDp d).goto c).setDp d').goto c')) :
    Host.Core.run Sys2Proof.core (n + 1) s₀ = .next ((s.setDp d').goto c') :=
  run_succ run (step_of_agenda_nil (s := (s.setDp d).goto c) alone decoded performed)

theorem run_chroma {s₀ s : State} {d : Datapath} {n : Nat} (alone : s.agenda = [])
    (run : Host.Core.run Sys2Proof.core n s₀ = .next ((s.setDp d).goto 0x04#5)) :
    Host.Core.run Sys2Proof.core (n + 4) s₀ = .next ((s.setDp (afterChroma d)).goto 0x08#5) :=
  have run := run_operation .center alone run rfl rfl
  have run := run_operation .rterm alone run rfl rfl
  have run := run_operation .gterm alone run rfl rfl
  run_operation .bterm alone run rfl rfl

theorem run_sums {s₀ s : State} {d : Datapath} {n : Nat} (alone : s.agenda = [])
    (run : Host.Core.run Sys2Proof.core n s₀ = .next ((s.setDp d).goto 0x08#5)) :
    Host.Core.run Sys2Proof.core (n + 4) s₀ = .next ((s.setDp (afterSums d s.seq.k)).goto 0x0C#5) :=
  let ys : Accum := toAccum (scaledLuma (laneLuma d s.seq.k))
  have run := run_operation .yscale alone run rfl (d' := { d with ys := ys }) rfl
  have run := run_operation .rsum alone run rfl (d' := { d with ys := ys, rs := toAccum (shiftedSum ys d.rt) }) rfl
  have run := run_operation .gsum alone run rfl rfl
  run_operation .bsum alone run rfl rfl

theorem run_saturation {s₀ s : State} {d : Datapath} {n : Nat} (alone : s.agenda = [])
    (run : Host.Core.run Sys2Proof.core n s₀ = .next ((s.setDp d).goto 0x0C#5)) :
    Host.Core.run Sys2Proof.core (n + 3) s₀ = .next ((s.setDp (afterSaturation d)).goto 0x0F#5) :=
  have run := run_operation .satr alone run rfl rfl
  have run := run_operation .satg alone run rfl rfl
  run_operation .satb alone run rfl rfl

/-- R171: the channels of a lane are the colour function of its samples, since no step on the way wraps (R168). -/
theorem afterSaturation_eq_csc (d : Datapath) (k : BitVec 1) :
    let t := afterSaturation (afterSums (afterChroma d) k)
    (⟨t.r8, t.g8, t.b8⟩ : Rgb) = csc (laneLuma d k) d.u d.v := by
  have su := toInt_ofInt_centred d.u
  have sv := toInt_ofInt_centred d.v
  have luma := toAccum_scaledLuma (laneLuma d k)
  have red := toAccum_laneSum luma (toAccum_redTerm sv) (redTerm_range d.v)
  have green := toAccum_laneSum luma (toAccum_greenTerm su sv) (greenTerm_range d.u d.v)
  have blue := toAccum_laneSum luma (toAccum_blueTerm su) (blueTerm_range d.u)
  exact (Rgb.mk.injEq ..).mpr ⟨congrArg sat8 red, congrArg sat8 green, congrArg sat8 blue⟩

/-- The colour function with the constants of R46 written out (R171). -/
theorem csc_eq (y u v : Byte) :
    let su : Int := (u.toNat : Int) - 128
    let sv : Int := (v.toNat : Int) - 128
    let ys : Int := max 0 ((y.toNat : Int) - 16) * 1220542
    csc y u v =
      ⟨sat8 ((ys + 524288 + 1673527 * sv) / 2 ^ 20), sat8 ((ys + 524288 - 852492 * sv - 409993 * su) / 2 ^ 20),
        sat8 ((ys + 524288 + 2116026 * su) / 2 ^ 20)⟩ := by
  simp only [csc, asr20, shiftDivisor, scaledLuma, lumaFloor, coefY, redTerm, greenTerm, blueTerm, bias, coefVR, coefVG,
    coefUG, coefUB, centred, chromaMid]
  congr 3 <;> ring

/-- Settles O25: the four operations of the pair, then the four sums and the three saturations of the lane. -/
theorem colourOperationsComputeCsc : Obligations.ColourOperationsComputeCsc := by
  intro s alone phase
  have start : s = (s.setDp s.dp).goto 0x04#5 := by rw [← phase]; rfl
  have chroma := run_chroma (n := 0) alone (congrArg _ start)
  have run : Host.Core.run Sys2Proof.core 11 s = _ := run_saturation alone (run_sums alone chroma)
  have channels := afterSaturation_eq_csc s.dp s.seq.k
  rw [csc_eq] at channels
  obtain ⟨red, green, blue⟩ := Rgb.mk.inj channels
  exact ⟨_, run, rfl, red, green, blue⟩

end Sys2Proof.Machine
end

section
/-!
Saturation: the three operations clamp their channel (R180 to R183), the unsigned-compare form is the same function (R184), and
no byte shows how the shift rounds a negative sum (R185).
-/

namespace Sys2Proof.Machine

/-- Settles O27: each operation writes `sat8` of its channel, and that is the clamp. -/
theorem saturationClamps : Obligations.SaturationClamps := fun _ =>
  ⟨⟨_, rfl, sat8_toNat _⟩, ⟨_, rfl, sat8_toNat _⟩, ⟨_, rfl, sat8_toNat _⟩⟩

/-- R184: the unsigned reading of an `s32` is in a byte's range exactly when the signed one is. -/
theorem toNat_le_255_iff (x : BitVec 32) : x.toNat ≤ 255 ↔ 0 ≤ x.toInt ∧ x.toInt ≤ 255 := by
  have := x.isLt
  rw [BitVec.toInt_eq_toNat_cond]
  split <;> omega

/-- Settles O28: in a byte's range the two readings are the same number; out of it the sign tells above from below. -/
theorem unsignedCompareFormIsSat8 : Obligations.UnsignedCompareFormIsSat8 := by
  intro x
  have clamp := sat8_toNat x.toInt
  have inRange := toNat_le_255_iff x
  split_ifs with small positive
  · have same : x.toInt = x.toNat := BitVec.toInt_eq_toNat_of_lt (by omega)
    omega
  · omega
  · omega

/-- R180: everything at or below 0 saturates to 0. -/
theorem sat8_of_nonpos {x : Int} (nonpos : x ≤ 0) : sat8 x = 0#8 := by
  have clamp := sat8_toNat x
  apply BitVec.eq_of_toNat_eq
  rw [BitVec.toNat_zero]
  omega

/-- Settles O29: from 0 up the floor and the truncated quotient are the same number, and below 0 neither is positive. -/
theorem saturationHidesRounding : Obligations.SaturationHidesRounding := by
  intro x
  rcases Int.le_total 0 x with nonneg | nonpos
  · rw [Int.tdiv_eq_ediv_of_nonneg nonneg, asr20, shiftDivisor]
    rfl
  · have floor : asr20 x ≤ 0 := by
      have := asr20_spec x
      omega
    have truncated : x.tdiv (2 ^ 20) ≤ 0 := by
      have opposite : 0 ≤ (-x).tdiv (2 ^ 20) := Int.tdiv_nonneg (Int.neg_nonneg_of_nonpos nonpos) (by decide)
      rwa [Int.neg_tdiv, Int.neg_nonneg] at opposite
    rw [sat8_of_nonpos floor, sat8_of_nonpos truncated]

end Sys2Proof.Machine
end

section
/-!
The end of the pipeline: where `PACK` places the bytes of a pixel (R190) and where `STORE8` puts the pair (R191), and that every
pixel of a finished frame is opaque (R192).
-/

namespace Sys2Proof.Machine

/-- R103: the positions of red and blue, computed from `B_IDX`. -/
theorem colourPositions_of_params (l : Layout) :
    (rPos l.pixel).val = 2 - (paramsOf l).bIdx ∧ (bPos l.pixel).val = (paramsOf l).bIdx := by
  rcases l with ⟨_, _ | _⟩ <;> exact ⟨rfl, rfl⟩

/-- R192: in every order of the pixel alpha comes last and is 255. -/
theorem packPixel_alpha (o : PixelOrder) (r g b : Byte) : (packPixel o r g b).get 3 = 255#8 := by
  cases o <;> rfl

/-- R103, R190: each colour stands at its position of the order. -/
theorem packPixel_colours (o : PixelOrder) (r g b : Byte) :
    (packPixel o r g b).get (rPos o) = r ∧ (packPixel o r g b).get 1 = g ∧ (packPixel o r g b).get (bPos o) = b := by
  cases o <;> exact ⟨rfl, rfl, rfl⟩

/-- R190: in lane 0 `PACK` writes the first pixel and begins lane 1. -/
theorem execPack_lane0 {s : State} {q : Quad} (pixel : packPixel s.layout.pixel s.dp.r8 s.dp.g8 s.dp.b8 = q)
    (lane : s.seq.k = 0#1) : execPack s = .next { s with
      dp := { s.dp with p0 := q.b0, p1 := q.b1, p2 := q.b2, p3 := q.b3 }
      seq := { s.seq with k := 1#1, phase := 0x08#5 } } := by
  rw [execPack, if_pos lane, pixel]
  rfl

/-- R190: in lane 1 `PACK` writes the second pixel and goes on to `STORE8`. -/
theorem execPack_lane1 {s : State} {q : Quad} (pixel : packPixel s.layout.pixel s.dp.r8 s.dp.g8 s.dp.b8 = q)
    (lane : s.seq.k = 1#1) : execPack s = .next { s with
      dp := { s.dp with p4 := q.b0, p5 := q.b1, p6 := q.b2, p7 := q.b3 }
      seq := { s.seq with phase := 0x10#5 } } := by
  rw [execPack, if_neg (by simp [lane]), pixel]
  rfl

/-- Settles O30: `packPixel` places the four bytes, and the lane says which half of the pair they are. -/
theorem packPlacesThePixel : Obligations.PackPlacesThePixel := by
  intro s
  obtain ⟨redPos, bluePos⟩ := colourPositions_of_params s.layout
  obtain ⟨red, green, blue⟩ := packPixel_colours s.layout.pixel s.dp.r8 s.dp.g8 s.dp.b8
  exact ⟨_, ⟨_, _, redPos, bluePos, red, green, blue, packPixel_alpha ..⟩, execPack_lane0 rfl, execPack_lane1 rfl⟩

/-- Settles O31: memory answers at all eight addresses, so the access happens; eight offsets are eight different addresses, so
each byte of the pair stays as stored. -/
theorem store8WritesThePair : Obligations.Store8WritesThePair := by
  intro s wf answer
  have happens : exec .store8 s = .next _ := withAccess_memory _ fun i hi => by
    rw [byteAddr_mod]
    exact answer i hi
  have stored (i : Nat) (hi : i < 8) : (writeBytes s.mem s.seq.dcur 0 s.dp.pairBytes).read
      ((s.seq.dcur.toNat + i) % 2 ^ 32) = s.dp.pairBytes[i]'hi := by
    have back := read_writeBytes wf s.seq.dcur 0 s.dp.pairBytes i hi (by simp)
    rwa [Nat.zero_add, byteAddr_mod] at back
  refine ⟨_, happens, stored 0 (by decide), stored 1 (by decide), stored 2 (by decide), stored 3 (by decide),
    stored 4 (by decide), stored 5 (by decide), stored 6 (by decide), stored 7 (by decide), fun a apart => ?_⟩
  refine read_writeBytes_outside wf _ _ _ _ fun i hi => ?_
  rw [Nat.zero_add, byteAddr_mod]
  exact apart i hi

end Sys2Proof.Machine

namespace Sys2Proof.Safety

open Sys2Proof.Machine

/-- R192, R206: byte 3 of every pixel of the converted frame is alpha, whatever the group holds. -/
theorem finalByte_alpha (l : Layout) (c : HostRegs) (m0 : Memory) (i : Nat) : finalByte l c m0 (4 * i + 3) = 255#8 := by
  have offset : Fin.ofNat 4 (4 * i + 3) = 3 := Fin.ext (Nat.mul_add_mod 4 i 3)
  rw [finalByte, offset]
  exact packPixel_alpha ..

/-- Settles O49: at `FINISH` the byte is the converted frame's, and that is alpha. -/
theorem alphaIsAlways255 : Obligations.AlphaIsAlways255 := by
  intro s inv phase i hi
  have inside : 4 * i + 3 < dstExtent s.cfg := by
    rw [dstExtent, Nat.mul_assoc]
    omega
  rw [Nat.add_assoc, read_destination_of_finish inv phase inside, finalByte_alpha]

end Sys2Proof.Safety
end

section
/-!
The sequencer, one operation at a time (R200 to R205): what `CHECK` leaves of a legal launch, how `ADVANCE` and `NEXTROW` move
the cursors, how a run ends, and which `PHASE` follows which.
-/

namespace Sys2Proof.Machine

open Sys2Proof.Safety

/-- Settles O32: `IDLE` has no effect. -/
theorem idleChangesNothing : Obligations.IdleChangesNothing := fun _ => rfl

/-- Settles O35: `FINISH` writes the three fields and no other. -/
theorem finishEndsTheRun : Obligations.FinishEndsTheRun := fun _ => rfl

/-- Settles O33: both cursors take a sum of 32 bits, and so does `COL`, which holds it exactly where it fits. -/
theorem advanceMovesTheCursors : Obligations.AdvanceMovesTheCursors := fun s =>
  ⟨s.seq.scur + 4#32, s.seq.dcur + 8#32, s.seq.col + 1#32, rfl, BitVec.toNat_add .., BitVec.toNat_add ..,
    BitVec.toNat_add_of_lt (y := 1#32)⟩

/-- Settles O34: the destination's step `4 * WIDTH` narrows to 32 bits before it is added, which is the same modulo `2^32`. -/
theorem nextrowMovesToTheNextRow : Obligations.NextrowMovesToTheNextRow := by
  intro s
  refine ⟨s.seq.srow + s.cfg.srcStride, s.seq.drow + 4#32 * s.cfg.width, s.seq.row + 1#32, rfl, BitVec.toNat_add .., ?_,
    BitVec.toNat_add_of_lt (y := 1#32)⟩
  rw [BitVec.toNat_add, BitVec.toNat_mul, BitVec.toNat_ofNat, Nat.add_mod_mod]

/-- R79: a launch with no device in its regions is not on a device. -/
theorem launchOnDevice_eq_false {s : State}
    (apart : ∀ a, inSource s.cfg a = true ∨ inDestination s.cfg a = true → answerAt s.platform a ≠ .device) :
    launchOnDevice s = false := by
  refine Bool.eq_false_iff.mpr fun onDevice => ?_
  obtain ⟨a, region, device⟩ := (launchOnDevice_iff s).mp onDevice
  exact apart a region device

/-- Settles O14: neither of the two ways `CHECK` turns a launch down applies. -/
theorem checkAcceptsLegalLaunch : Obligations.CheckAcceptsLegalLaunch := by
  intro s legal apart
  have noFault := (checkFault_none_iff_not_holds s.cfg).mpr legal
  have noDevice := launchOnDevice_eq_false apart
  show execCheck s = _
  simp only [execCheck, noFault, noDevice]
  rfl

/-- Settles O36, by what the operation in `PHASE` leaves: of the table's rows only those of its own code apply. -/
theorem phaseSuccession : Obligations.PhaseSuccession := by
  intro s t turn stepped
  obtain ⟨i, code, run⟩ := conv_of_step turn stepped
  -- Taking the turn off the agenda changes nothing the table reads.
  rw [← takeEvent_seq s, ← takeEvent_cfg s]
  generalize takeEvent s = u at code run ⊢
  rcases conv_next code run with ⟨hp, rfl⟩ | ⟨hp, ⟨f, fault, rfl⟩ | ⟨noFault, rfl⟩⟩ | ⟨hp, g, -, rfl⟩ | ⟨lo, hi, d, rfl, -⟩ |
    ⟨hp, hk, d, rfl, -⟩ | ⟨hp, hk, d, rfl, -⟩ | ⟨hp, rfl⟩ | ⟨hp, p, rfl, rfl⟩ | ⟨hp, p, rfl, rfl⟩ | ⟨hp, rfl⟩
  · simp [hp]
  · have holds := exists_faultHolds_of_checkFault fault
    simp [hp, holds, raiseConfigFault]
  · have legal := (checkFault_none_iff_not_holds _).mp noFault
    simp [hp, legal, cursorsAtLaunch]
  · simp [hp]
  · simp only [State.goto_seq, BitVec.toNat_ofNat]
    and_intros <;> intros <;> omega
  · simp [hp, hk]
  · simp [hp, hk]
  · simp [hp]
  · by_cases rowDone : u.cfg.width.toNat ≤ 2 * (u.seq.col.toNat + 1) <;> simp [hp, rowDone]
  · by_cases frameDone : u.cfg.height.toNat ≤ u.seq.row.toNat + 1 <;> simp [hp, frameDone]
  · simp [hp]

end Sys2Proof.Machine
end

section
/-!
A whole run (R206, R207): the final bytes of a destination are the converted frame, a legal run left alone ends with it, and a
run that faults ends at `CHECK`.
-/

namespace Sys2Proof.Safety

open Sys2Proof.Machine

/-- R206: a pixel of the converted frame, at the four offsets a row names. -/
theorem groupPixel_bytes (l : Layout) (g : Quad) {k : Nat} (lane : k < 2) :
    let x := unpackGroup l.source g
    let rgb := csc (if k = 0 then x.y0 else x.y1) x.u x.v
    let q := groupPixel l g (BitVec.ofNat 1 k)
    q.get (rPos l.pixel) = rgb.r ∧ q.get 1 = rgb.g ∧ q.get (bPos l.pixel) = rgb.b ∧ q.get 3 = 255#8 := by
  have lane0 : BitVec.ofNat 1 k = 0#1 ↔ k = 0 := by interval_cases k <;> decide
  simp only [groupPixel, lane0]
  obtain ⟨red, green, blue⟩ := packPixel_colours l.pixel _ _ _
  exact ⟨red, green, blue, packPixel_alpha ..⟩

/-- R105, R206: a destination whose every byte is final holds the converted frame. -/
theorem frameConverted_of_final {l : Layout} {c : HostRegs} {m0 m : Memory}
    (final : ∀ j, j < dstExtent c → m.read (c.dstBase.toNat + j) = finalByte l c m0 j) : FrameConverted l c m0 m := by
  intro r row p k pair lane
  have byte (o : Fin 4) : m.read (pixelAddr c r (2 * p + k) + o.val) =
      (groupPixel l (groupAt m0 (groupAddr c r p)) (BitVec.ofNat 1 k)).get o := by
    have inside := rows_le_dstExtent (x := 2 * p + k + 1) row (by omega)
    have group : (2 * p + k) / 2 = p := by omega
    have parity : (2 * p + k) % 2 = k := by omega
    rw [pixelAddr, Nat.add_assoc, final _ (by omega), finalByte_pixel l c m0 (by omega) o.isLt, group, parity,
      Fin.ofNat_val_eq_self]
  obtain ⟨red, green, blue, alphaByte⟩ := groupPixel_bytes l (groupAt m0 (groupAddr c r p)) lane
  exact ⟨(byte _).trans red, (byte 1).trans green, (byte _).trans blue, (byte 3).trans alphaByte⟩

/-- Settles O43. -/
theorem finishFindsFrameConverted : Obligations.FinishFindsFrameConverted := fun _ inv phase =>
  frameConverted_of_final fun _ hj => read_destination_of_finish inv phase hj

/-- R206, R207: while `START` and the operations before `FINISH` are done the block is busy. -/
theorem LaunchReady.busy {s u : State} (h : LaunchReady s) {n : Nat} (lo : 1 ≤ n) (hi : n < 1 + runLength s.cfg)
    (run : Host.Core.run Sys2Proof.core n s = .next u) : u.status.busy = true := by
  obtain ⟨m, rfl⟩ := Nat.exists_eq_add_of_le' lo
  obtain ⟨v, run', alone, -⟩ := h.run (n := m) (by omega)
  obtain rfl : v = u := Host.Outcome.next.inj (run'.symm.trans run)
  rw [alone.status]
  rfl

/-- Settles O44: the run stands at `FINISH` with the frame converted, and `FINISH` changes only the flags and `PHASE`. -/
theorem wholeRunConvertsTheFrame : Obligations.WholeRunConvertsTheFrame := by
  intro s agenda idle wf noFault answer
  have ready : LaunchReady s := ⟨agenda, idle, wf, (checkFault_none_iff_not_holds s.cfg).mpr noFault, answer⟩
  obtain ⟨u, alone, finish, run⟩ := ready.finishes
  have frame := finishFindsFrameConverted u alone.inv finish
  rw [alone.layout, alone.cfg, alone.launchMem] at frame
  have status : statusWord (statusFinished u.status) = 0x00000002#32 := by rw [alone.status]; rfl
  exact ⟨_, run, fun n v lo hi => ready.busy lo hi, status, rfl, alone.cfg, frame, alone.outside⟩

/-- Settles O45: `START` is accepted, and `CHECK` takes the fault. -/
theorem faultingRunTouchesNothing : Obligations.FaultingRunTouchesNothing := by
  intro s f agenda idle holds
  obtain ⟨g, fault⟩ : ∃ g, checkFault s.cfg = some g := by
    refine Option.ne_none_iff_exists'.mp fun legal => ?_
    exact (checkFault_none_iff_not_holds s.cfg).mp legal f holds
  have turn : nextEvent s = .command 0x1000000001#37 := by rw [nextEvent, agenda]
  have decoded : decode (.ht 0x1000000001#37) = .ok .start := rfl
  have started : step s = .next (launched (takeEvent s)) := by
    rw [step_of_command turn, runWord_of_decode_ok decoded, exec_start_of_idle (s := takeEvent s) idle]
  have checked : exec .check (launched (takeEvent s)) = .next (raiseConfigFault g (launched (takeEvent s))) := by
    simp [exec, execCheck, fault]
  have alone : (launched (takeEvent s)).agenda = [] := congrArg List.tail agenda
  have run : Host.Core.run Sys2Proof.core 2 s = .next (raiseConfigFault g (launched (takeEvent s))) :=
    run_succ (run_succ (n := 0) rfl started) (step_of_agenda_nil alone rfl checked)
  exact ⟨_, run, rfl, rfl, rfl, rfl, rfl, rfl, rfl⟩

end Sys2Proof.Safety
end

section
/-!
A range of rows of a legal frame (R209): its configuration names addresses of the whole frame, so it is legal, its rows are rows
of the frame, and its run writes those and nothing else.
-/

namespace Sys2Proof.Safety

open Sys2Proof.Machine

/-- A range of `n` rows from `r0` on of a launch `CHECK` accepts (R201, R209). -/
structure LegalRange (c : HostRegs) (r0 n : Nat) : Prop where
  legal : checkFault c = none
  nonempty : 0 < n
  inFrame : r0 + n ≤ c.height.toNat

/-- R209: the bases and the height of the range are exact. -/
theorem LegalRange.registers {c : HostRegs} {r0 n : Nat} (h : LegalRange c r0 n) :
    (rowRange c r0 n).srcBase.toNat = c.srcBase.toNat + r0 * c.srcStride.toNat ∧
      (rowRange c r0 n).dstBase.toNat = c.dstBase.toNat + r0 * (4 * c.width.toNat) ∧
      (rowRange c r0 n).height.toNat = n := by
  obtain ⟨legal, nonempty, inFrame⟩ := h
  obtain ⟨width, -, -, stride, -⟩ := (checkFault_none_iff c).mp legal
  obtain ⟨src, dst⟩ := row_fits (r := r0) legal (by omega)
  simp only [rowRange, BitVec.toNat_ofNat]
  refine ⟨Nat.mod_eq_of_lt (by omega), Nat.mod_eq_of_lt (by omega), Nat.mod_eq_of_lt (by omega)⟩

/-- R104, R209: a group of the range is a group of the frame. -/
theorem LegalRange.groupAddr_eq {c : HostRegs} {r0 n : Nat} (h : LegalRange c r0 n) (r p : Nat) :
    groupAddr (rowRange c r0 n) r p = groupAddr c (r0 + r) p := by
  obtain ⟨src, -, -⟩ := h.registers
  have stride : (rowRange c r0 n).srcStride = c.srcStride := rfl
  rw [groupAddr, groupAddr, src, stride]
  ring

/-- R105, R209: a pixel of the range is a pixel of the frame. -/
theorem LegalRange.pixelAddr_eq {c : HostRegs} {r0 n : Nat} (h : LegalRange c r0 n) (r x : Nat) :
    pixelAddr (rowRange c r0 n) r x = pixelAddr c (r0 + r) x := by
  obtain ⟨-, dst, -⟩ := h.registers
  have width : (rowRange c r0 n).width = c.width := rfl
  rw [pixelAddr, pixelAddr, dst, width]
  ring

/-- R209: both regions of the range lie in those of the frame. -/
theorem LegalRange.legal_rowRange {c : HostRegs} {r0 n : Nat} (h : LegalRange c r0 n) :
    checkFault (rowRange c r0 n) = none := by
  obtain ⟨src, dst, height⟩ := h.registers
  obtain ⟨legal, nonempty, inFrame⟩ := h
  obtain ⟨width, -, even, stride, srcLen, dstLen, srcFits, dstFits, apart⟩ := (checkFault_none_iff c).mp legal
  have rows (size : Nat) : r0 * size + size * n ≤ size * c.height.toNat := by
    calc r0 * size + size * n = size * (r0 + n) := by ring
      _ ≤ size * c.height.toNat := Nat.mul_le_mul_left _ inFrame
  have srcRows : r0 * c.srcStride.toNat + srcExtent (rowRange c r0 n) ≤ srcExtent c := by
    rw [srcExtent, height]
    exact rows c.srcStride.toNat
  have dstRows : r0 * (4 * c.width.toNat) + dstExtent (rowRange c r0 n) ≤ dstExtent c := by
    rw [dstExtent, height]
    exact rows (4 * c.width.toNat)
  rw [checkFault_none_iff, src, dst, height]
  refine ⟨width, nonempty, even, stride, le_trans ?_ srcLen, le_trans ?_ dstLen, ?_, ?_, ?_⟩ <;> omega

/-- R209: a row of the range is converted exactly when the row of the frame is. -/
theorem LegalRange.rowConverted_iff {c : HostRegs} {r0 n : Nat} (h : LegalRange c r0 n) (l : Layout) (m0 m : Memory)
    (r : Nat) : RowConverted l (rowRange c r0 n) m0 m r ↔ RowConverted l c m0 m (r0 + r) := by
  have width : (rowRange c r0 n).width = c.width := rfl
  simp only [RowConverted, h.groupAddr_eq, h.pixelAddr_eq, width]

/-- R209: the range is converted exactly when its rows of the frame are. -/
theorem LegalRange.frameConverted_iff {c : HostRegs} {r0 n : Nat} (h : LegalRange c r0 n) (l : Layout) (m0 m : Memory) :
    FrameConverted l (rowRange c r0 n) m0 m ↔ ∀ r, r0 ≤ r → r < r0 + n → RowConverted l c m0 m r := by
  obtain ⟨-, -, height⟩ := h.registers
  simp only [FrameConverted, height, h.rowConverted_iff]
  constructor
  · intro rows r lo hi
    obtain ⟨i, rfl⟩ := Nat.exists_eq_add_of_le lo
    exact rows i (by omega)
  · exact fun rows r hr => rows (r0 + r) (by omega) (by omega)

/-- R72, R209: an address before the first row of the range or from the end of its last on is outside its destination. -/
theorem LegalRange.outside {c : HostRegs} {r0 n a : Nat} (h : LegalRange c r0 n)
    (apart : a < pixelAddr c r0 0 ∨ pixelAddr c (r0 + n) 0 ≤ a) :
    inDestination (rowRange c r0 n) a = false := by
  obtain ⟨-, -, height⟩ := h.registers
  have first := h.pixelAddr_eq 0 0
  have last := h.pixelAddr_eq n 0
  rw [Nat.add_zero] at first
  rw [← first, ← last] at apart
  have width : (rowRange c r0 n).width = c.width := rfl
  have extent : dstExtent (rowRange c r0 n) = 4 * (n * (rowRange c r0 n).width.toNat) := by rw [dstExtent, height]; ring
  simp only [inDestination, extent, Bool.and_eq_false_iff, decide_eq_false_iff_not]
  simp only [pixelAddr] at apart
  omega

/-- Settles O53: the range's run is the run of a legal configuration. -/
theorem frameSplitsByRows : Obligations.FrameSplitsByRows := by
  intro c r0 n noFault nonempty inFrame
  have range : LegalRange c r0 n := ⟨(checkFault_none_iff_not_holds c).mpr noFault, nonempty, inFrame⟩
  have noFault' := (checkFault_none_iff_not_holds _).mp range.legal_rowRange
  refine ⟨noFault', range.frameConverted_iff, fun s cfg agenda idle wf answer => ?_⟩
  obtain ⟨t, run, -, status, -, -, frame, outside⟩ :=
    wholeRunConvertsTheFrame s agenda idle wf (cfg ▸ noFault') answer
  rw [cfg] at frame outside
  exact ⟨t, run, status, (range.frameConverted_iff _ _ _).mp frame, fun a apart => outside a (range.outside apart)⟩

end Sys2Proof.Safety
end

section
/-!
The configuration check against the table of causes (R201, R221 to R223): the cause it takes is the one of lowest code among
those whose condition holds.
-/

namespace Sys2Proof.Machine

open Sys2Proof.Safety

/-- R222: the condition of the cause holds, and that of no cause of a lower code does. -/
def LowestFault (c : HostRegs) (f : ConfigFault) : Prop :=
  FaultHolds c f ∧ ∀ g : ConfigFault, (faultCode g).toNat < (faultCode f).toNat → ¬ FaultHolds c g

/-- Settles O13. -/
theorem faultCodesAreThoseOfTheTable : Obligations.FaultCodesAreThoseOfTheTable :=
  ⟨rfl, rfl, rfl, rfl, rfl, rfl, rfl⟩

/-- R221: different causes have different codes. -/
theorem faultCode_injective : Function.Injective faultCode := by
  intro f g
  cases f <;> cases g <;> decide

/-- R222: of two different causes one has the lower code, so at most one is lowest. -/
theorem LowestFault.unique {c : HostRegs} {f g : ConfigFault} (hf : LowestFault c f) (hg : LowestFault c g) : f = g := by
  obtain ⟨fHolds, belowF⟩ := hf
  obtain ⟨gHolds, belowG⟩ := hg
  rcases lt_trichotomy (faultCode f).toNat (faultCode g).toNat with lower | same | higher
  · exact absurd fHolds (belowG f lower)
  · exact faultCode_injective (BitVec.eq_of_toNat_eq same)
  · exact absurd gHolds (belowF g higher)

/-- R201, R222: `CHECK` comes to a condition only after those of all lower codes failed. -/
theorem lowestFault_of_checkFault {c : HostRegs} {f : ConfigFault} (fault : checkFault c = some f) : LowestFault c f := by
  obtain ⟨dim, oddWidth, stride, srcSize, dstSize, addrWrap, overlap⟩ := faultCodesAreThoseOfTheTable
  unfold checkFault srcExtent dstExtent at fault
  split_ifs at fault <;> obtain rfl := Option.some.inj fault
  all_goals
    refine ⟨by assumption, fun g lower => ?_⟩
    -- A cause below the one taken has a failed test; the others have no lower code.
    cases g <;> simp only [FaultHolds] <;> omega

/-- R222: `CHECK` takes a cause exactly when it is the lowest. -/
theorem checkFault_eq_some_iff {c : HostRegs} {f : ConfigFault} : checkFault c = some f ↔ LowestFault c f := by
  refine ⟨lowestFault_of_checkFault, fun lowest => ?_⟩
  cases taken : checkFault c with
  | none => exact absurd lowest.1 ((checkFault_none_iff_not_holds c).mp taken f)
  | some g => rw [(lowestFault_of_checkFault taken).unique lowest]

/-- Settles O12: the lowest cause is the one `CHECK` takes, and taking it writes `STATUS` and `PHASE`. -/
theorem checkReportsLowestFault : Obligations.CheckReportsLowestFault := by
  intro s f holds lowest
  have fault : checkFault s.cfg = some f := checkFault_eq_some_iff.mpr ⟨holds, lowest⟩
  show execCheck s = _
  rw [execCheck, fault]
  rfl

end Sys2Proof.Machine
end

section
/-!
Reset (R250, R252): it clears the block, and memory changes only where it cuts a run short. HOST's duties (R256): which steps
change the records of the runs it owes them on and of the launch memory.
-/

namespace Sys2Proof.Machine

open Sys2Proof.Safety

/-- R250: reset is an event of its own, which always happens. -/
theorem step_of_reset {s : State} (event : nextEvent s = .reset) : step s = .next (resetInput (takeEvent s)) := by
  rw [step, event, happen]

/-- R50: all flags and the fault code read 0 after reset. -/
theorem statusWord_zero : statusWord Status.zero = 0#32 := by decide

/-- R250: reset cuts no run short while idle, or before `CHECK` has taken a fault that holds, and leaves memory alone. -/
theorem memAfterReset_of_no_run {s : State} (noRun : s.status.busy = false ∨ ∃ f, FaultHolds s.cfg f) :
    memAfterReset s = s.mem := by
  rw [memAfterReset, if_neg]
  intro cut
  simp only [Bool.and_eq_true, Option.isNone_iff_eq_none] at cut
  obtain ⟨busy, legal⟩ := cut
  rcases noRun with idle | ⟨f, holds⟩
  · exact absurd (idle.symm.trans busy) Bool.false_ne_true
  · exact (checkFault_none_iff_not_holds s.cfg).mp legal f holds

/-- R252: a reset that cuts a run short leaves the destination region partly written. -/
theorem memAfterReset_of_run {s : State} (busy : s.status.busy = true) (legal : checkFault s.cfg = none) :
    memAfterReset s = landBytes s (dstExtent s.cfg) s.mem := by
  rw [memAfterReset, busy, legal]
  rfl

/-- R252, U9: whatever the free choice, a byte of the destination has its old value or its final one. -/
theorem read_memAfterReset_destination {s : State} (busy : s.status.busy = true) (legal : checkFault s.cfg = none)
    (wf : s.mem.wf = true) {j : Nat} (inside : j < dstExtent s.cfg) :
    (memAfterReset s).read (s.cfg.dstBase.toNat + j) = s.launchMem.read (s.cfg.dstBase.toNat + j) ∨
      (memAfterReset s).read (s.cfg.dstBase.toNat + j) = finalByte s.layout s.cfg s.launchMem j := by
  obtain ⟨-, -, -, -, -, -, -, dstFits, -⟩ := (checkFault_none_iff _).mp legal
  rw [memAfterReset_of_run busy legal, read_landBytes wf _ dstFits, if_pos (by omega), Nat.add_sub_cancel_left]
  split_ifs with landed
  · exact .inr rfl
  · exact .inl rfl

/-- R252: a reset that cuts a run short leaves every byte outside the destination as it was. -/
theorem read_memAfterReset_outside {s : State} (busy : s.status.busy = true) (legal : checkFault s.cfg = none)
    (wf : s.mem.wf = true) {a : Nat} (outside : inDestination s.cfg a = false) :
    (memAfterReset s).read a = s.mem.read a := by
  obtain ⟨-, -, -, -, -, -, -, dstFits, -⟩ := (checkFault_none_iff _).mp legal
  rw [memAfterReset_of_run busy legal, read_landBytes wf _ dstFits, if_neg]
  simpa [inDestination] using outside

/-- Settles O58. -/
theorem resetClearsTheBlock : Obligations.ResetClearsTheBlock := fun s event noRun =>
  ⟨_, step_of_reset event, statusWord_zero, rfl, rfl, rfl, rfl, rfl, rfl, rfl, rfl, rfl,
    memAfterReset_of_no_run (s := takeEvent s) noRun, rfl⟩

/-- Settles O59: the registers are those of `resetInput`, and memory is that of a run cut short. -/
theorem resetDuringRunLeavesOldOrFinal : Obligations.ResetDuringRunLeavesOldOrFinal := by
  intro s event busy noFault wf
  have legal : checkFault (takeEvent s).cfg = none := (checkFault_none_iff_not_holds s.cfg).mpr noFault
  exact ⟨_, step_of_reset event, statusWord_zero, rfl, rfl,
    fun j inside => read_memAfterReset_destination (s := takeEvent s) busy legal wf inside,
    fun a outside => read_memAfterReset_outside (s := takeEvent s) busy legal wf outside⟩

/-- The model's two records of a run, the duties HOST owes (log 9) and the launch memory (log 12), are the same in two
states. -/
structure SameRecords (s t : State) : Prop where
  owed : t.owed = s.owed
  launchMem : t.launchMem = s.launchMem

/-- No operation of CONV, `FINISH` and the fault `CHECK` takes included, ends a duty (R256). -/
theorem sameRecords_of_conv {i : Instr} {s t : State} (code : encode i = .uop s.seq.phase) (run : exec i s = .next t) :
    SameRecords s t := by
  rcases conv_next code run with ⟨-, rfl⟩ | ⟨-, ⟨f, -, rfl⟩ | ⟨-, rfl⟩⟩ | ⟨-, g, -, rfl⟩ | ⟨-, -, d, rfl, -⟩ |
    ⟨-, -, d, rfl, -⟩ | ⟨-, -, d, rfl, -⟩ | ⟨-, rfl⟩ | ⟨-, p, rfl, -⟩ | ⟨-, p, rfl, -⟩ | ⟨-, rfl⟩
  all_goals exact ⟨rfl, rfl⟩

/-- R256: only HOST's commands change the records; reset is not one of them. -/
theorem sameRecords_of_not_command {s t : State} (notCommand : ¬ ∃ w, nextEvent s = .command w) (stepped : step s = .next t) :
    SameRecords s t := by
  rcases step_next stepped with ⟨w, event, -⟩ | ⟨i, -, code, run⟩ | ⟨a, -, -, rfl⟩ | ⟨a, b, -, -, rfl⟩ | ⟨-, rfl⟩
  · exact absurd ⟨w, event⟩ notCommand
  · have same := sameRecords_of_conv (s := takeEvent s) code run
    exact ⟨same.owed, same.launchMem⟩
  all_goals exact ⟨rfl, rfl⟩

/-- R256: what a command does to the records, by the one it is: an accepted `START` makes new ones, a read of `STATUS` that shows
`BUSY = 0` ends the duties, and every other command keeps both. -/
theorem records_of_command {w : HtWord} {s t : State} (run : exec (decodeHt w) s = .next t) :
    (s.status.busy = false ∧ decodeHt w = .start → t.owed = s.cfg :: s.owed ∧ t.launchMem = s.mem) ∧
    (s.status.busy = false ∧ decodeHt w = .regrd 1#4 → t.owed = [] ∧ t.launchMem = s.launchMem) ∧
    (¬ (s.status.busy = false ∧ decodeHt w = .start) → ¬ (s.status.busy = false ∧ decodeHt w = .regrd 1#4) →
      SameRecords s t) := by
  obtain ⟨t', run', effect⟩ := exec_decodeHt w s
  obtain rfl : t' = t := Host.Outcome.next.inj (run'.symm.trans run)
  rcases effect with ⟨rfl, noRead, busy⟩ | ⟨n, read, rfl⟩ | ⟨idle, start, rfl⟩ | ⟨-, noRead, noStart, c, rfl⟩
  · exact ⟨fun ⟨idle, start⟩ => absurd (idle.symm.trans (busy start)) Bool.false_ne_true,
      fun ⟨_, read⟩ => absurd read (noRead 1#4), fun _ _ => ⟨rfl, rfl⟩⟩
  · simp only [read, reduceCtorEq, and_false, false_implies, not_false_eq_true, true_implies, true_and, Instr.regrd.injEq]
    exact ⟨fun ⟨idle, status⟩ => ⟨if_pos ⟨status, idle⟩, rfl⟩,
      fun notSeen => ⟨if_neg fun ⟨status, idle⟩ => notSeen ⟨idle, status⟩, rfl⟩⟩
  · exact ⟨fun _ => ⟨rfl, rfl⟩, fun ⟨_, read⟩ => Instr.noConfusion (start.symm.trans read),
      fun notStarted => absurd ⟨idle, start⟩ notStarted⟩
  · exact ⟨fun ⟨_, start⟩ => absurd start noStart, fun ⟨_, read⟩ => absurd read (noRead 1#4), fun _ _ => ⟨rfl, rfl⟩⟩

/-- Settles O55: a step is HOST's command, whose effect on the records is known, or it keeps both. -/
theorem dutiesHoldUntilIdleIsSeen : Obligations.DutiesHoldUntilIdleIsSeen := by
  intro s t stepped
  by_cases command : ∃ w, nextEvent s = .command w
  case pos =>
    obtain ⟨w, event⟩ := command
    have run : exec (decodeHt w) (takeEvent s) = .next t := by
      rw [← stepped, step_of_command event, runWord_of_decode_ok rfl]
    obtain ⟨started, seenIdle, other⟩ := records_of_command run
    simp only [event, Event.command.injEq, exists_eq_left']
    refine ⟨started, seenIdle, fun notStarted notSeen => ?_⟩
    have same := other notStarted notSeen
    exact ⟨same.owed, same.launchMem⟩
  case neg =>
    have same := sameRecords_of_not_command command stepped
    exact ⟨fun ⟨_, w, event, _⟩ => absurd ⟨w, event⟩ command, fun ⟨_, w, event, _⟩ => absurd ⟨w, event⟩ command,
      fun _ _ => ⟨same.owed, same.launchMem⟩⟩

end Sys2Proof.Machine
end
